-- ==== Sys2Proof/Word.lean ====
section
/-! DEFINITION. The bit-vector widths the spec gives the block's values (00_scope.md R17, R19; 30_encoding.md R70). -/

namespace Sys2Proof

/-- An 8-bit value: a row of the Digit Buffer, a character code, a controller command byte. -/
abbrev Byte := BitVec 8

/-- A 16-bit value: a segment mask, the RESULT register, the B field of a command word. -/
abbrev Mask := BitVec 16

/-- A 32-bit value: a command word or the response word. -/
abbrev Word := BitVec 32

/-- A frame: the bytes of one transaction, first byte first (R30, R54). -/
abbrev Frame := List Byte

end Sys2Proof
end

