-- ==== Sys2Proof/Config.lean ====
section
/-! DEFINITION. What is fixed before reset and never changed afterwards (00_scope.md R9 to R16, 10_state.md R35): the
parameters a model takes as arguments. They are data, so one machine runs under any of them. -/

namespace Sys2Proof

/-- `TOPO` (R9): 16-segment with a transposed buffer, or 7-segment with one font byte per row. -/
inductive Topology where
  | seg16
  | seg7
  deriving DecidableEq, Repr

/-- What consumes frames (R18 (c)): the line serializer of layer 2, which waits on nothing, or an external consumer
that may stall for ever. -/
inductive Link where
  | serializer
  | external
  deriving DecidableEq, Repr

/-- One entry of a Font Table (R76). -/
structure Glyph where
  character : Byte
  mask : Mask
  deriving DecidableEq, Repr

/-- The parameters of R9 to R16. `ADDR_CMD`, `MODE_AUTOINC` and `CTRL_BASE` are fixed by R15 and stand in
Machine/Operands.lean. -/
structure Config where
  /-- `TOPO`, R9. -/
  topo : Topology
  /-- `N`, the digit count of the 16-segment topology, R11. -/
  digits : Nat
  /-- `ROWS7`, the row count of the 7-segment topology, R10. -/
  rows7 : Nat
  /-- `FONT7`, R14. -/
  font7 : List Glyph
  /-- `FONT16`, R14. -/
  font16 : List Glyph
  /-- `MINUS_MASK`, used by the host macro `display_number` only, R16. -/
  minusMask : Mask
  /-- The link at the frame port, R18 (c). -/
  link : Link
  deriving DecidableEq, Repr

end Sys2Proof
end

