-- ==== Sys2Proof/Syntax.lean ====
section
/-! DEFINITION. The commands of the block and what stands beside them: what the host presents, what a decoder
rejects, and the assembler's commands with operands not yet checked. -/

namespace Sys2Proof

/-- One constructor per row of spec/opcode_table.json. The nine commands carry exactly the operand bits of
30_encoding.md R71 and R72. The four `k` rows are the controller command-byte families of R80 to R83, whose
undescribed low bits `u` are kept. -/
inductive Instr where
  /-- LOOKUP (R102). -/
  | lookup (chr : Byte)
  /-- SETDIG (R111, R113). -/
  | setdig (pos : Byte) (mask : Mask)
  /-- GETROW (R116). -/
  | getrow (row : Byte)
  /-- PUTC (R120). -/
  | putc (pos chr : Byte)
  /-- CLR (R118). -/
  | clr
  /-- FLUSH (R131). -/
  | flush
  /-- CMD (R136). -/
  | cmd (byte : Byte)
  /-- SETBRT (R138). -/
  | setbrt (level : BitVec 3)
  /-- SETPWR (R140). -/
  | setpwr (on : Bool)
  /-- K.MODE, `01uuuuuu` (R82). -/
  | kMode (u : BitVec 6)
  /-- K.DISPCTL, `10uupbbb` (R81). -/
  | kDispctl (u : BitVec 2) (pwr : Bool) (brt : BitVec 3)
  /-- K.ADDR, `11uuuuuu` (R82). -/
  | kAddr (u : BitVec 6)
  /-- K.RESERVED, `00uuuuuu` (R83). -/
  | kReserved (u : BitVec 6)
  deriving DecidableEq, Repr

/-- What the host presents: a 32-bit command word (format C32, R70), or one controller command byte (format K8,
R80) to be sent as it is. DESIGN CHOICE for the second, log entry 5; safe. -/
inductive PortItem where
  | word (cw : Word)
  | byte (k : Byte)
  deriving DecidableEq, Repr

/-- Why a decoder rejects an item. -/
inductive Undecodable where
  /-- `OP` is none of `0x01` to `0x09` (R77). -/
  | undefinedOpcode (op : Byte)
  deriving DecidableEq, Repr

/-- A line of assembler text (R84): a mnemonic and its operands as numbers, in the order the text has them. -/
inductive AsmCmd where
  | lookup (chr : Nat)
  | setdig (pos mask : Nat)
  | getrow (row : Nat)
  | putc (pos chr : Nat)
  | clr
  | flush
  | cmd (byte : Nat)
  | setbrt (level : Nat)
  | setpwr (on : Nat)
  deriving DecidableEq, Repr

end Sys2Proof
end

