-- ==== Sys2Proof/WellFormed.lean ====
section
/-! DEFINITION. What is well formed before the machine sees it: an assembler line (30_encoding.md R84), the arguments of
a host macro (44_host_macros.md), and the parameters (00_scope.md R10, R11; 40_font_lookup.md R101). A term of `Instr`
needs no check: each of its fields is exactly as wide as the operand's field in the word. -/

namespace Sys2Proof

/-- "The assembler refuses an operand that does not fit its field" (R84). -/
def AsmCmd.wf : AsmCmd → Bool
  | .lookup chr => chr ≤ 255
  | .setdig pos mask => pos ≤ 255 && mask ≤ 0xFFFF
  | .getrow row => row ≤ 255
  | .putc pos chr => pos ≤ 255 && chr ≤ 255
  | .clr => true
  | .flush => true
  | .cmd byte => byte ≤ 255
  | .setbrt level => level ≤ 7
  | .setpwr on => on ≤ 1

/-- The arguments of `display_number` that R174 admits: a 16-bit signed value, a field at least one position wide, and
no position above 255. -/
def displayNumberArgsWf (start : Nat) (value : Int) (width : Nat) : Bool :=
  decide (-32768 ≤ value) && decide (value ≤ 32767) && decide (1 ≤ width) && decide (start + width - 1 ≤ 255)

/-- The bounds R10 and R11 put on the parameters: `1 <= N <= 8` and `ROWS7` in `1..3`. -/
abbrev Config.Wf (c : Config) : Prop := (1 ≤ c.digits ∧ c.digits ≤ 8) ∧ (1 ≤ c.rows7 ∧ c.rows7 ≤ 3)

/-- A digit or an upper-case letter of ASCII (R17). -/
def isAlnum (c : Byte) : Bool :=
  decide (0x30#8 ≤ c ∧ c ≤ 0x39#8) || decide (0x41#8 ≤ c ∧ c ≤ 0x5A#8)

/-- A lower-case letter of ASCII (R17). -/
def isLower (c : Byte) : Bool := decide (0x61#8 ≤ c ∧ c ≤ 0x7A#8)

/-- ASCII punctuation: the printable codes other than the space, the digits and the letters. PRESUMED (the spec leaves
the set of 16-segment punctuation characters open), log entry 14; safe. -/
def isPunctuation (c : Byte) : Bool :=
  decide (0x21#8 ≤ c ∧ c ≤ 0x7E#8) && !isAlnum c && !isLower c

/-- The 36 characters of `FONT7`, in the order of R105. -/
def alnumCodes : List Byte :=
  (List.range 10).map (fun i => BitVec.ofNat 8 (0x30 + i)) ++ (List.range 26).map (fun i => BitVec.ofNat 8 (0x41 + i))

/-- R101 (a): the characters of `FONT7` are exactly the digits and the upper-case letters. -/
def font7Chars (f : List Glyph) : Bool :=
  f.all (fun g => isAlnum g.character) && alnumCodes.all (fun c => f.any (fun g => g.character == c))

/-- R101 (b): `FONT16` has the digits and the upper-case letters, and every other character of it is punctuation. -/
def font16Chars (f : List Glyph) : Bool :=
  f.all (fun g => isAlnum g.character || isPunctuation g.character)
    && alnumCodes.all (fun c => f.any (fun g => g.character == c))

/-- R101 (c): no character occurs twice. -/
def fontNoDuplicates (f : List Glyph) : Bool := decide (f.map Glyph.character).Nodup

/-- Everything R101 lets a model assume of the two tables. No meaning of a command rests on it. -/
def Config.fontsOk (c : Config) : Bool :=
  font7Chars c.font7 && font16Chars c.font16 && fontNoDuplicates c.font7 && fontNoDuplicates c.font16

end Sys2Proof
end

