-- ==== Sys2Proof/Decode.lean ====
section
/-! DEFINITION. Words to commands and back (30_encoding.md R70 to R73, R77, R80 to R83), and the assembler's last step
(R84). Decoding is total; it looks at `OP` alone and rejects by name. -/

namespace Sys2Proof

/-- `OP = CW[31:24]` (R70). -/
def opField (cw : Word) : Byte := cw.extractLsb' 24 8

/-- `A = CW[23:16]` (R70). -/
def aField (cw : Word) : Byte := cw.extractLsb' 16 8

/-- `B = CW[15:0]` (R70). -/
def bField (cw : Word) : Mask := cw.extractLsb' 0 16

/-- `chr = B[7:0]` (R71). -/
def chrField (cw : Word) : Byte := (bField cw).setWidth 8

/-- A command word from its three fields (R70). -/
def commandWord (op a : Byte) (b : Mask) : Word := op ++ a ++ b

/-- Decoding a command word: "match on `CW & 0xFF000000`" (R71); any other `OP` is undefined (R77). -/
def decodeWord (cw : Word) : Except Undecodable Instr :=
  let op := opField cw
  if op = 0x01#8 then .ok (.lookup (chrField cw))
  else if op = 0x02#8 then .ok (.setdig (aField cw) (bField cw))
  else if op = 0x03#8 then .ok (.getrow (aField cw))
  else if op = 0x04#8 then .ok (.putc (aField cw) (chrField cw))
  else if op = 0x05#8 then .ok .clr
  else if op = 0x06#8 then .ok .flush
  else if op = 0x07#8 then .ok (.cmd (aField cw))
  else if op = 0x08#8 then .ok (.setbrt ((aField cw).setWidth 3))
  else if op = 0x09#8 then .ok (.setpwr ((aField cw).getLsbD 0))
  else .error (.undefinedOpcode op)

/-- Decoding a controller command byte by its two family bits (R80). Every byte has a family. -/
def decodeByte (k : Byte) : Instr :=
  let family := k.extractLsb' 6 2
  if family = 0b01#2 then .kMode (k.setWidth 6)
  else if family = 0b10#2 then .kDispctl (k.extractLsb' 4 2) (k.getLsbD 3) (k.setWidth 3)
  else if family = 0b11#2 then .kAddr (k.setWidth 6)
  else .kReserved (k.setWidth 6)

/-- The decoder: what the host presented, read as a command. -/
def decode : PortItem → Except Undecodable Instr
  | .word cw => decodeWord cw
  | .byte k => .ok (decodeByte k)

/-- The mode-set byte `01uuuuuu` (R80, R82). -/
def modeByte (u : BitVec 6) : Byte := 0b01#2 ++ u

/-- The display-control byte `10uupbbb` (R80, R81). -/
def dispctlByte (u : BitVec 2) (pwr : Bool) (brt : BitVec 3) : Byte := 0b10#2 ++ u ++ BitVec.ofBool pwr ++ brt

/-- The address-set byte `11uuuuuu` (R80, R82). -/
def addrByte (u : BitVec 6) : Byte := 0b11#2 ++ u

/-- A byte of the unnamed family `00uuuuuu` (R80, R83). -/
def reservedByte (u : BitVec 6) : Byte := 0b00#2 ++ u

/-- The encoder. "An assembler writes [unused operand bits] as 0" (R73). -/
def encode : Instr → PortItem
  | .lookup chr => .word (commandWord 0x01#8 0#8 (chr.setWidth 16))
  | .setdig pos mask => .word (commandWord 0x02#8 pos mask)
  | .getrow row => .word (commandWord 0x03#8 row 0#16)
  | .putc pos chr => .word (commandWord 0x04#8 pos (chr.setWidth 16))
  | .clr => .word (commandWord 0x05#8 0#8 0#16)
  | .flush => .word (commandWord 0x06#8 0#8 0#16)
  | .cmd byte => .word (commandWord 0x07#8 byte 0#16)
  | .setbrt level => .word (commandWord 0x08#8 (level.setWidth 8) 0#16)
  | .setpwr on => .word (commandWord 0x09#8 ((BitVec.ofBool on).setWidth 8) 0#16)
  | .kMode u => .byte (modeByte u)
  | .kDispctl u pwr brt => .byte (dispctlByte u pwr brt)
  | .kAddr u => .byte (addrByte u)
  | .kReserved u => .byte (reservedByte u)

/-- The assembler: a line whose operands fit gives its command, any other is refused (R84). -/
def assemble (a : AsmCmd) : Option Instr :=
  if a.wf then
    some (match a with
      | .lookup chr => .lookup (BitVec.ofNat 8 chr)
      | .setdig pos mask => .setdig (BitVec.ofNat 8 pos) (BitVec.ofNat 16 mask)
      | .getrow row => .getrow (BitVec.ofNat 8 row)
      | .putc pos chr => .putc (BitVec.ofNat 8 pos) (BitVec.ofNat 8 chr)
      | .clr => .clr
      | .flush => .flush
      | .cmd byte => .cmd (BitVec.ofNat 8 byte)
      | .setbrt level => .setbrt (BitVec.ofNat 3 level)
      | .setpwr on => .setpwr (on == 1))
  else none

/-- An opcode-table row's bits as the host presents them: format K8 rows are 8 bits wide, format C32 rows 32. -/
def tableItem (nbits w : Nat) : PortItem :=
  if nbits ≤ 8 then .byte (BitVec.ofNat 8 w) else .word (BitVec.ofNat 32 w)

/-- The instruction the decoder reads from the bits of an opcode-table row. -/
def decodeTableWord (nbits w : Nat) : Option Instr := (decode (tableItem nbits w)).toOption

end Sys2Proof
end

