-- ==== Sys2Proof/Machine/Flags.lean ====
section
/-! DEFINITION. The status and display-control fields (10_state.md R27, R28) and the response word (R29). -/

namespace Sys2Proof.Machine

/-- Bit 0 of `STATUS`. -/
def foundBit : BitVec 8 := 0x01#8

/-- Bit 1 of `STATUS`. -/
def illBit : BitVec 8 := 0x02#8

/-- The bits of `STATUS` that are not hard-wired to 0 (R28). -/
def statusBits : BitVec 8 := 0x03#8

/-- `STATUS.FOUND <- b` (R28). -/
def statusWithFound (st : BitVec 8) (b : Bool) : BitVec 8 := if b then st ||| foundBit else st &&& ~~~ foundBit

/-- `STATUS.ILL <- 1` (R77). -/
def statusWithIll (st : BitVec 8) : BitVec 8 := st ||| illBit

/-- `STATUS` as read: "bits 7:2 read as 0" (R28). -/
def statusRead (st : BitVec 8) : BitVec 8 := st &&& statusBits

/-- `DISPCTL.BRT <- level` (R138). -/
def dispctlWithBrt (d : BitVec 4) (level : BitVec 3) : BitVec 4 := (d &&& 0b1000#4) ||| level.setWidth 4

/-- `DISPCTL.PWR <- on` (R140). -/
def dispctlWithPwr (d : BitVec 4) (on : Bool) : BitVec 4 := if on then d ||| 0b1000#4 else d &&& 0b0111#4

/-- `RSP = {0x00, STATUS, RESULT}` (R29). -/
def responseWord (st : BitVec 8) (result : BitVec 16) : Word := 0x00#8 ++ statusRead st ++ result

end Sys2Proof.Machine
end

