-- ==== Sys2Proof/Machine/Operands.lean ====
section
/-! DEFINITION. What the parameters and the operands stand for (00_scope.md R10 to R19): the derived parameters, the one
addressing mode (direct index, R182), the look-up key, and the controller command constants. -/

namespace Sys2Proof

/-- `R`, the row count (R10). -/
def Config.rowCount (c : Config) : Nat :=
  match c.topo with
  | .seg16 => 16
  | .seg7 => c.rows7

/-- `P`, the position count (R12). -/
def Config.posCount (c : Config) : Nat :=
  match c.topo with
  | .seg16 => c.digits
  | .seg7 => c.rowCount

/-- `ROWMASK`, the valid bits of a row (R13). -/
def Config.rowMask (c : Config) : Byte :=
  match c.topo with
  | .seg16 => BitVec.ofNat 8 (2 ^ c.digits - 1)
  | .seg7 => 0xFF#8

/-- `FONT`, the active font (R14). -/
def Config.font (c : Config) : List Glyph :=
  match c.topo with
  | .seg16 => c.font16
  | .seg7 => c.font7

/-- `upcase` (R19): `c - 0x20` for `0x61 <= c <= 0x7A`, else `c`. -/
def upcase (c : Byte) : Byte := if 0x61#8 ≤ c ∧ c ≤ 0x7A#8 then c - 0x20#8 else c

/-- The key a character is looked up by (R102, R104). -/
def Config.lookupKey (c : Config) (chr : Byte) : Byte :=
  match c.topo with
  | .seg16 => chr
  | .seg7 => upcase chr

/-- The look-up (R102): "linear scan, first match wins". -/
def Config.lookup (c : Config) (chr : Byte) : Option Mask :=
  (c.font.find? (fun g => g.character == c.lookupKey chr)).map Glyph.mask

/-- `MODE_AUTOINC` (R15). -/
def modeAutoinc : Byte := 0x40#8

/-- `CTRL_BASE` (R15). -/
def ctrlBase : Byte := 0x80#8

/-- `ADDR_CMD` (R15). -/
def addrCmd : Byte := 0xC0#8

/-- The bit of position `pos` in a row, `1 << pos` at 8 bits (R111). -/
def posBit (pos : Byte) : Byte := 1#8 <<< pos.toNat

/-- One row of a transposed write (R111): the position's bit set or cleared as bit `row` of the mask says, the unused
bits masked off. -/
def columnByte (c : Config) (pos : Byte) (mask : Mask) (row : Nat) (old : Byte) : Byte :=
  if mask.getLsbD row then (old ||| posBit pos) &&& c.rowMask else (old &&& ~~~ posBit pos) &&& c.rowMask

/-- `mask[7:0]`, what a 7-segment row takes of a mask (R113). -/
def maskLow (mask : Mask) : Byte := mask.setWidth 8

end Sys2Proof
end

