-- ==== Sys2Proof/Machine/RefFonts.lean ====
section
/-! DEFINITION. The reference font tables (40_font_lookup.md R105, R106) and the configuration State.reset runs under.
"The two tables below are not the repository's ... No rule depends on them": no statement rests on a mask here.
PRESUMED (the spec marks them general knowledge), log entry 2; unsafe. -/

namespace Sys2Proof

/-- `REF_FONT7`, the digits. -/
def refFont7Digits : List Glyph :=
  [⟨0x30#8, 0x003F#16⟩, ⟨0x31#8, 0x0006#16⟩, ⟨0x32#8, 0x005B#16⟩, ⟨0x33#8, 0x004F#16⟩, ⟨0x34#8, 0x0066#16⟩,
   ⟨0x35#8, 0x006D#16⟩, ⟨0x36#8, 0x007D#16⟩, ⟨0x37#8, 0x0007#16⟩, ⟨0x38#8, 0x007F#16⟩, ⟨0x39#8, 0x006F#16⟩]

/-- `REF_FONT7`, the letters. -/
def refFont7Letters : List Glyph :=
  [⟨0x41#8, 0x0077#16⟩, ⟨0x42#8, 0x007C#16⟩, ⟨0x43#8, 0x0039#16⟩, ⟨0x44#8, 0x005E#16⟩, ⟨0x45#8, 0x0079#16⟩,
   ⟨0x46#8, 0x0071#16⟩, ⟨0x47#8, 0x003D#16⟩, ⟨0x48#8, 0x0076#16⟩, ⟨0x49#8, 0x0030#16⟩, ⟨0x4A#8, 0x001E#16⟩,
   ⟨0x4B#8, 0x0075#16⟩, ⟨0x4C#8, 0x0038#16⟩, ⟨0x4D#8, 0x0015#16⟩, ⟨0x4E#8, 0x0054#16⟩, ⟨0x4F#8, 0x003F#16⟩,
   ⟨0x50#8, 0x0073#16⟩, ⟨0x51#8, 0x0067#16⟩, ⟨0x52#8, 0x0050#16⟩, ⟨0x53#8, 0x006D#16⟩, ⟨0x54#8, 0x0078#16⟩,
   ⟨0x55#8, 0x003E#16⟩, ⟨0x56#8, 0x001C#16⟩, ⟨0x57#8, 0x002A#16⟩, ⟨0x58#8, 0x0076#16⟩, ⟨0x59#8, 0x006E#16⟩,
   ⟨0x5A#8, 0x005B#16⟩]

/-- `REF_FONT7`, 36 entries in the order of R105. -/
def refFont7 : List Glyph := refFont7Digits ++ refFont7Letters

/-- `REF_FONT16`, the digits. -/
def refFont16Digits : List Glyph :=
  [⟨0x30#8, 0x90FF#16⟩, ⟨0x31#8, 0x100C#16⟩, ⟨0x32#8, 0x0377#16⟩, ⟨0x33#8, 0x023F#16⟩, ⟨0x34#8, 0x038C#16⟩,
   ⟨0x35#8, 0x03BB#16⟩, ⟨0x36#8, 0x03FB#16⟩, ⟨0x37#8, 0x000F#16⟩, ⟨0x38#8, 0x03FF#16⟩, ⟨0x39#8, 0x03BF#16⟩]

/-- `REF_FONT16`, the letters. -/
def refFont16Letters : List Glyph :=
  [⟨0x41#8, 0x03CF#16⟩, ⟨0x42#8, 0x4A3F#16⟩, ⟨0x43#8, 0x00F3#16⟩, ⟨0x44#8, 0x483F#16⟩, ⟨0x45#8, 0x01F3#16⟩,
   ⟨0x46#8, 0x01C3#16⟩, ⟨0x47#8, 0x02FB#16⟩, ⟨0x48#8, 0x03CC#16⟩, ⟨0x49#8, 0x4833#16⟩, ⟨0x4A#8, 0x007C#16⟩,
   ⟨0x4B#8, 0x31C0#16⟩, ⟨0x4C#8, 0x00F0#16⟩, ⟨0x4D#8, 0x14CC#16⟩, ⟨0x4E#8, 0x24CC#16⟩, ⟨0x4F#8, 0x00FF#16⟩,
   ⟨0x50#8, 0x03C7#16⟩, ⟨0x51#8, 0x20FF#16⟩, ⟨0x52#8, 0x23C7#16⟩, ⟨0x53#8, 0x03BB#16⟩, ⟨0x54#8, 0x4803#16⟩,
   ⟨0x55#8, 0x00FC#16⟩, ⟨0x56#8, 0x90C0#16⟩, ⟨0x57#8, 0xA0CC#16⟩, ⟨0x58#8, 0xB400#16⟩, ⟨0x59#8, 0x5400#16⟩,
   ⟨0x5A#8, 0x9033#16⟩]

/-- `REF_FONT16`, the punctuation characters `- + * / _`. -/
def refFont16Punctuation : List Glyph :=
  [⟨0x2D#8, 0x0300#16⟩, ⟨0x2B#8, 0x4B00#16⟩, ⟨0x2A#8, 0xFF00#16⟩, ⟨0x2F#8, 0x9000#16⟩, ⟨0x5F#8, 0x0030#16⟩]

/-- `REF_FONT16`, 41 entries in the order of R106. -/
def refFont16 : List Glyph := refFont16Digits ++ refFont16Letters ++ refFont16Punctuation

/-- The configuration of State.reset: the defaults of R10 and R11, the topology and `MINUS_MASK` of the spec's own test
vectors (95_test_vectors.md), the reference fonts, and the link of layer 2. DESIGN CHOICE, log entry 2; unsafe. -/
def Config.default : Config where
  topo := .seg16
  digits := 6
  rows7 := 3
  font7 := refFont7
  font16 := refFont16
  minusMask := 0x0300#16
  link := .serializer

end Sys2Proof
end

