-- ==== Sys2Proof/Machine/State.lean ====
section
/-! DEFINITION. The state of the block, of its link and of its host port, the reasons a step can stop, and reset
(10_state.md R20 to R36). -/

namespace Sys2Proof.Machine

/-- The Digit Buffer `ROW[0..R-1]` (R21), the block's one address space (R50): (row index, byte) pairs, indices strictly
rising, no byte `0x00`. A row not listed reads `0x00`, its reset contents (R36). -/
abbrev Memory := List Host.Cell

/-- `LINEMODE` (R33): who owns the two shared lines. -/
inductive LineMode where
  | periph
  | gpio
  deriving DecidableEq, Repr

/-- `LSTATE` (R33). The byte and bit indices exist only while a byte is sent. -/
inductive LState where
  | idle
  | start
  | byte (byteIndex bitIndex : Nat)
  | stop
  deriving DecidableEq, Repr

/-- A line event (R34). -/
inductive LineEvent where
  | mode (m : LineMode)
  | dio (b : Bool)
  | clk (b : Bool)
  | hold
  deriving DecidableEq, Repr

/-- Why the machine stops. The block itself raises no exception (R190). -/
inductive Fault where
  /-- Raised by step only (Machine/Ops.lean, poll), when a frame waits on an external link that never takes it: "the
  block is stuck for ever" (R192; treatment `stuck`, U16). Safe: the hardware has no next state either. -/
  | busHang
  deriving DecidableEq, Repr

/-- Why an instruction has no meaning. -/
inductive Refusal where
  /-- Raised by exec's arms for an instruction without a meaning. Safe. No arm raises it. -/
  | notModelled (mnemonic : String)
  /-- Raised by a frame-emitting command over the line serializer while the external addressed-byte peripheral is in
  mid-transaction: the spec forbids it and gives no effect (R157, R226; treatment `refuse`, U20). Safe. -/
  | peripheralBusy
  deriving DecidableEq, Repr

/-- Everything the spec gives the machine. INVENTORY.md lists each field with its rule. -/
structure State where
  /-- The parameters of R9 to R16; no command writes them (R35). -/
  cfg : Config
  /-- `ROW[0..R-1]`, R21. -/
  buf : Memory
  /-- `DISPCTL`, R27: bits 2:0 `BRT`, bit 3 `PWR`. -/
  dispctl : BitVec 4
  /-- `STATUS`, R28: bit 0 `FOUND`, bit 1 `ILL`. -/
  status : BitVec 8
  /-- `RESULT`, R29. -/
  result : BitVec 16
  /-- `TXLOG`, R30, oldest frame first. -/
  txlog : List Frame
  /-- `LSTATE`, R33. -/
  lstate : LState
  /-- `LINEMODE`, R33. -/
  linemode : LineMode
  /-- `CLK`, R33, true = high. -/
  clk : Bool
  /-- `DIO`, R33, true = high. -/
  dio : Bool
  /-- `LINELOG`, R34, oldest event first. -/
  linelog : List LineEvent
  /-- The command port (R31): what the host has still to present, in its order. -/
  pending : List PortItem
  /-- The frame a command has handed to an external link that has not taken it yet (R30, R192). -/
  emitting : Option Frame
  /-- Input: what an external link answers each time a frame is offered to it; at the end of the list it never takes a
  frame again (R18 (c), R192). The list is the model's form (log entry 7), its value at reset the model's choice (log
  entry 20). -/
  linkTakes : List Bool
  /-- Input: the external addressed-byte peripheral is in the middle of a transaction (R226). -/
  periphBusy : Bool
  deriving DecidableEq, Repr

/-- The state after reset under the parameters `c` (R36, R221). `CLK` and `DIO` are unspecified there: both low is a
DESIGN CHOICE, log entry 3; unsafe. What is outside the block the spec leaves open too. The inputs as they stand at reset
are a DESIGN CHOICE: no item presented (`pending`, log entry 4; safe), an external link that never takes a frame
(`linkTakes` empty, so that the first frame after reset hangs under such a link; R192 only says the link may or may not
take it; log entry 20; unsafe), an idle peripheral (`periphBusy`, log entry 8). No frame waits (`emitting`): "Reset emits
no frame" (R36). -/
def State.resetWith (c : Config) : State where
  cfg := c
  buf := []
  dispctl := 0x0#4
  status := 0x00#8
  result := 0x0000#16
  txlog := []
  lstate := .idle
  linemode := .periph
  clk := false
  dio := false
  linelog := []
  pending := []
  emitting := none
  linkTakes := []
  periphBusy := false

/-- The machine right after reset, under the default parameters (log entry 2). -/
def State.reset : State := State.resetWith Config.default

end Sys2Proof.Machine
end

