-- ==== Sys2Proof/Machine/Ops.lean ====
section
/-! DEFINITION. The shared operations over the state: the Digit Buffer (R21, R57), the status and result registers (R28,
R29), the line serializer (43_link_serializer.md), the frame port (R30), and the undefined command (R77). The block has
no trap (R190, R198), so there is no exception to take. -/

namespace Sys2Proof.Machine

/-! ## The Digit Buffer -/

/-- `ROW[a]` as stored; a row not listed holds `0x00`. -/
def Memory.read : Memory → Nat → Byte
  | [], _ => 0x00#8
  | (k, v) :: rest, a => if a = k then v else Memory.read rest a

/-- A cell put before a list, left out when its byte is what an unlisted row reads as. -/
def Memory.cons (a : Nat) (v : Byte) (m : Memory) : Memory := if v = 0x00#8 then m else (a, v) :: m

/-- `ROW[a] <- v`, keeping the canonical form. -/
def Memory.write : Memory → Nat → Byte → Memory
  | [], a, v => Memory.cons a v []
  | (k, w) :: rest, a, v =>
    if a < k then Memory.cons a v ((k, w) :: rest)
    else if a = k then Memory.cons a v rest
    else (k, w) :: Memory.write rest a v

/-- `for i in 0 .. n: ROW[i] <- f i ROW[i]`. -/
def Memory.sweep (f : Nat → Byte → Byte) : Nat → Memory → Memory
  | 0, m => m
  | n + 1, m =>
    let m' := Memory.sweep f n m
    Memory.write m' n (f n (Memory.read m' n))

/-- The canonical form: indices strictly rising, no byte `0x00`. -/
abbrev Memory.wf (m : Memory) : Prop := m.Pairwise (fun a b => a.1 < b.1) ∧ ∀ c ∈ m, c.2 ≠ 0x00#8

/-- The read primitive (R116, R182): masked with `ROWMASK`, 0 out of range. -/
def State.getRow (s : State) (row : Nat) : Byte :=
  if row < s.cfg.rowCount then Memory.read s.buf row &&& s.cfg.rowMask else 0x00#8

/-- The write primitive of SETDIG and PUTC (R111 in `SEG16`, R113 in `SEG7`); out of range nothing happens. -/
def State.setDigit (pos : Byte) (mask : Mask) (s : State) : State :=
  match s.cfg.topo with
  | .seg16 =>
    if pos.toNat < s.cfg.digits then
      { s with buf := Memory.sweep (columnByte s.cfg pos mask) s.cfg.rowCount s.buf }
    else s
  | .seg7 =>
    if pos.toNat < s.cfg.rowCount then { s with buf := Memory.write s.buf pos.toNat (maskLow mask) } else s

/-- `for i in 0 .. R: ROW[i] <- 0x00` (R118). -/
def State.clearRows (s : State) : State :=
  { s with buf := Memory.sweep (fun _ _ => 0x00#8) s.cfg.rowCount s.buf }

/-! ## STATUS and RESULT -/

/-- `STATUS.FOUND` and `RESULT` after a look-up (R102): a miss leaves 0 in both. -/
def State.setLookup (r : Option Mask) (s : State) : State :=
  { s with status := statusWithFound s.status r.isSome, result := r.getD 0x0000#16 }

/-- LOOKUP's whole effect, and PUTC's first step (R102, R120). -/
def State.lookupChar (chr : Byte) (s : State) : State := s.setLookup (s.cfg.lookup chr)

/-- The response word the host may read after a command (R29). -/
def State.rsp (s : State) : Word := responseWord s.status s.result

/-- What the block does with an undefined command word (R77): `STATUS.ILL <- 1` and nothing else. -/
def undefinedCommand (s : State) : State := { s with status := statusWithIll s.status }

/-! ## The line serializer -/

/-- The level `CLK` has after some events. -/
def clkAfter (es : List LineEvent) (b : Bool) : Bool :=
  es.foldl (fun b e => match e with | .clk v => v | .mode _ => b | .dio _ => b | .hold => b) b

/-- The level `DIO` has after some events. -/
def dioAfter (es : List LineEvent) (b : Bool) : Bool :=
  es.foldl (fun b e => match e with | .dio v => v | .mode _ => b | .clk _ => b | .hold => b) b

/-- The value `LINEMODE` has after some events. -/
def modeAfter (es : List LineEvent) (m : LineMode) : LineMode :=
  es.foldl (fun m e => match e with | .mode v => v | .dio _ => m | .clk _ => m | .hold => m) m

/-- `line(e)` for each event (R34), the lines taking the values named. -/
def State.drive (es : List LineEvent) (s : State) : State :=
  { s with
    linelog := s.linelog ++ es
    clk := clkAfter es s.clk
    dio := dioAfter es s.dio
    linemode := modeAfter es s.linemode }

/-- A phase of the serializer: `LSTATE` entered, then its events. -/
def State.phase (l : LState) (es : List LineEvent) (s : State) : State := State.drive es { s with lstate := l }

/-- START's events (R152). -/
def startEvents : List LineEvent := [.dio true, .clk true, .hold, .dio false]

/-- One bit's events (R153). -/
def bitEvents (b : Bool) : List LineEvent := [.clk false, .dio b, .hold, .clk true, .hold]

/-- STOP's events (R154). -/
def stopEvents : List LineEvent := [.clk false, .dio false, .hold, .clk true, .hold, .dio true, .hold]

/-- ACQUIRE (R151). -/
def State.acquire (s : State) : State := s.drive [.mode .gpio]

/-- START (R152). -/
def State.startCondition (s : State) : State := s.phase .start startEvents

/-- BYTE (R153): bit 0 first; `i` is the byte's index in its frame. -/
def State.sendByte (i : Nat) (b : Byte) (s : State) : State :=
  (List.range 8).foldl (fun s k => s.phase (.byte i k) (bitEvents (b.getLsbD k))) s

/-- BYTE for each byte of a frame in order, the first at index `i` (R150). -/
def State.sendBytes : Nat → Frame → State → State
  | _, [], s => s
  | i, b :: rest, s => State.sendBytes (i + 1) rest (s.sendByte i b)

/-- STOP (R154), after which `LSTATE = IDLE`. -/
def State.stopCondition (s : State) : State := { s.phase .stop stopEvents with lstate := .idle }

/-- RELEASE (R155). -/
def State.release (s : State) : State := s.drive [.mode .periph]

/-- Serializing one frame: ACQUIRE, START, BYTE for each byte, STOP, RELEASE (R150). -/
def State.serialize (f : Frame) (s : State) : State :=
  ((s.acquire.startCondition.sendBytes 0 f).stopCondition).release

/-! ## The frame port -/

/-- The frame the link has taken whole goes into `TXLOG` (R30). -/
def State.logFrame (f : Frame) (s : State) : State := { s with txlog := s.txlog ++ [f] }

/-- A frame offered once to an external link: taken whole, or left waiting with the command port stalled (R30, R192). -/
def State.offer (f : Frame) (s : State) : State :=
  match s.linkTakes with
  | true :: rest => { s.logFrame f with linkTakes := rest, emitting := none }
  | false :: rest => { s with linkTakes := rest, emitting := some f }
  | [] => { s with emitting := some f }

/-- `emit(f)` (R30, R130). Over the serializer the whole frame goes out within the command (R31, R59, R156); the
peripheral must be idle when the lines are acquired (R226). Over an external link the frame is offered. -/
def emit (f : Frame) (s : State) : Host.Outcome State Fault Refusal :=
  match s.cfg.link with
  | .serializer => if s.periphBusy then .refused .peripheralBusy else .next ((s.serialize f).logFrame f)
  | .external => .next (s.offer f)

/-- What a step does while a frame waits on an external link: the frame is offered again, and a link that never takes
it leaves the block stuck (R192). -/
def poll (f : Frame) (s : State) : Host.Outcome State Fault Refusal :=
  match s.linkTakes with
  | [] => .fault .busHang
  | _ :: _ => .next (s.offer f)

/-- The flush frame (R78): `ADDR_CMD`, then every row in index order, masked. -/
def State.flushFrame (s : State) : Frame :=
  addrCmd :: (List.range s.cfg.rowCount).map (fun i => Memory.read s.buf i &&& s.cfg.rowMask)

/-- The display-control byte `0x80 | DISPCTL` (R81). -/
def controlByte (d : BitVec 4) : Byte := ctrlBase ||| d.setWidth 8

end Sys2Proof.Machine
end

