-- ==== Sys2Proof/Machine/Buffer.lean ====
section
/-! DEFINITION. The buffer family: SETDIG, GETROW, PUTC, CLR (41_buffer_transposer.md). -/

namespace Sys2Proof.Machine

/-- SETDIG `pos, mask` (R111, R113). -/
def execSetdig (pos : Byte) (mask : Mask) (s : State) : Host.Outcome State Fault Refusal := .next (s.setDigit pos mask)

/-- GETROW `row` (R116): `RESULT <- zext_16(...)`. -/
def execGetrow (row : Byte) (s : State) : Host.Outcome State Fault Refusal :=
  .next { s with result := (s.getRow row.toNat).setWidth 16 }

/-- PUTC `pos, chr` (R120): LOOKUP, then SETDIG with the mask just found. -/
def execPutc (pos chr : Byte) (s : State) : Host.Outcome State Fault Refusal :=
  let s' := s.lookupChar chr
  .next (s'.setDigit pos s'.result)

/-- CLR (R118). -/
def execClr (s : State) : Host.Outcome State Fault Refusal := .next s.clearRows

end Sys2Proof.Machine
end

