-- ==== Sys2Proof/Machine/ControllerBytes.lean ====
section
/-! DEFINITION. The controller command-byte family: the K8 rows of the opcode table (30_encoding.md R80 to R83). The
block's one effect with such a byte is `build_command_frame(command_byte)`: a one-byte frame, unchecked, `DISPCTL` as it
was (R79, R83, R136). What the controller chip does with it is outside the block (R7 (d), U14, U15). DESIGN CHOICE, log
entry 5; safe. -/

namespace Sys2Proof.Machine

/-- K.MODE (R82). -/
def execKMode (u : BitVec 6) (s : State) : Host.Outcome State Fault Refusal := emit [modeByte u] s

/-- K.DISPCTL (R81): sent raw, so `DISPCTL` does not follow it (R136, R228). -/
def execKDispctl (u : BitVec 2) (pwr : Bool) (brt : BitVec 3) (s : State) : Host.Outcome State Fault Refusal :=
  emit [dispctlByte u pwr brt] s

/-- K.ADDR (R82): as a frame of its own, an address with no payload (R137 (b)). -/
def execKAddr (u : BitVec 6) (s : State) : Host.Outcome State Fault Refusal := emit [addrByte u] s

/-- K.RESERVED (R83). -/
def execKReserved (u : BitVec 6) (s : State) : Host.Outcome State Fault Refusal := emit [reservedByte u] s

end Sys2Proof.Machine
end

