-- ==== Sys2Proof/Machine/FontLookup.lean ====
section
/-! DEFINITION. The look-up family: LOOKUP (40_font_lookup.md). -/

namespace Sys2Proof.Machine

/-- LOOKUP `chr` (R102): `FOUND` and `RESULT`; nothing else. -/
def execLookup (chr : Byte) (s : State) : Host.Outcome State Fault Refusal := .next (s.lookupChar chr)

end Sys2Proof.Machine
end

