-- ==== Sys2Proof/Machine/FrameEncoder.lean ====
section
/-! DEFINITION. The output family: FLUSH, CMD, SETBRT, SETPWR (42_frame_encoder.md). -/

namespace Sys2Proof.Machine

/-- FLUSH (R131). -/
def execFlush (s : State) : Host.Outcome State Fault Refusal := emit s.flushFrame s

/-- CMD `byte` (R136): any byte, unchecked; `DISPCTL` is not changed. -/
def execCmd (byte : Byte) (s : State) : Host.Outcome State Fault Refusal := emit [byte] s

/-- SETBRT `level` (R138): `DISPCTL` is written before the byte is sent (R192). -/
def execSetbrt (level : BitVec 3) (s : State) : Host.Outcome State Fault Refusal :=
  let d := dispctlWithBrt s.dispctl level
  emit [controlByte d] { s with dispctl := d }

/-- SETPWR `on` (R140): `DISPCTL` is written before the byte is sent (R192). -/
def execSetpwr (on : Bool) (s : State) : Host.Outcome State Fault Refusal :=
  let d := dispctlWithPwr s.dispctl on
  emit [controlByte d] { s with dispctl := d }

end Sys2Proof.Machine
end

