-- ==== Sys2Proof/Machine/Dispatch.lean ====
section
/-! DEFINITION. One arm per constructor of Instr, each one call of its meaning. -/

namespace Sys2Proof.Machine

def exec (i : Instr) (s : State) : Host.Outcome State Fault Refusal :=
  match i with
  | .lookup chr => Sys2Proof.Machine.execLookup chr s
  | .setdig pos mask => Sys2Proof.Machine.execSetdig pos mask s
  | .getrow row => Sys2Proof.Machine.execGetrow row s
  | .putc pos chr => Sys2Proof.Machine.execPutc pos chr s
  | .clr => Sys2Proof.Machine.execClr s
  | .flush => Sys2Proof.Machine.execFlush s
  | .cmd byte => Sys2Proof.Machine.execCmd byte s
  | .setbrt level => Sys2Proof.Machine.execSetbrt level s
  | .setpwr on => Sys2Proof.Machine.execSetpwr on s
  | .kMode u => Sys2Proof.Machine.execKMode u s
  | .kDispctl u pwr brt => Sys2Proof.Machine.execKDispctl u pwr brt s
  | .kAddr u => Sys2Proof.Machine.execKAddr u s
  | .kReserved u => Sys2Proof.Machine.execKReserved u s

end Sys2Proof.Machine
end

