-- ==== Sys2Proof/Machine/Step.lean ====
section
/-! DEFINITION. One step of the machine (10_state.md R31): while a frame waits on the link, the link is asked again;
otherwise the host's next item is accepted and executed to completion; with nothing presented the block idles. -/

namespace Sys2Proof.Machine

/-- An accepted item: a command runs, an undefined word sets `ILL` (R77). -/
def State.accept (item : PortItem) (s : State) : Host.Outcome State Fault Refusal :=
  match decode item with
  | .ok i => exec i s
  | .error _ => .next (undefinedCommand s)

/-- One step. -/
def step (s : State) : Host.Outcome State Fault Refusal :=
  match s.emitting with
  | some f => poll f s
  | none =>
    match s.pending with
    | [] => .next s
    | item :: rest => State.accept item { s with pending := rest }

/-- `s` with an opcode-table row's bits as the next item the host presents, the port not stalled (log entry 4). -/
def State.withFetchWord (s : State) (nbits w : Nat) : State :=
  { s with pending := tableItem nbits w :: s.pending, emitting := none }

end Sys2Proof.Machine
end

