-- ==== Sys2Proof/Machine/Macros.lean ====
section
/-! DEFINITION. The host macros (44_host_macros.md): each a function from its arguments to a list of commands. The block
never sees a macro (R85); none of them flushes (R170). `none` is the assembler's refusal. -/

namespace Sys2Proof.Machine

/-- `display_char position, character` (R171). -/
def displayChar (position : Nat) (chr : Byte) : Option (List Instr) :=
  if position ≤ 255 then some [.putc (BitVec.ofNat 8 position) chr] else none

/-- `display_string start, text` (R172): one PUTC per character that falls at a position below `P`. -/
def displayString (c : Config) : Nat → List Byte → List Instr
  | _, [] => []
  | start, chr :: rest =>
    if start < c.posCount then .putc (BitVec.ofNat 8 start) chr :: displayString c (start + 1) rest
    else displayString c (start + 1) rest

/-- What `display_number` puts at one column (R175). -/
inductive NumGlyph where
  | digit (d : Nat)
  | minus
  | blank
  deriving DecidableEq, Repr

/-- `nd`, the number of decimal digits of `mag` (R175); `mag <= 32768`, so 1 to 5. -/
def numDigits (mag : Nat) : Nat :=
  if mag < 10 then 1 else if mag < 100 then 2 else if mag < 1000 then 3 else if mag < 10000 then 4 else 5

/-- `dg(j)`, decimal digit `j` of `mag`, 0 the least significant (R175). -/
def decimalDigit (mag j : Nat) : Nat := mag / 10 ^ j % 10

/-- The glyph of column `col` (0 leftmost) of a field of `width` columns (R175). -/
def numberGlyph (value : Int) (leadingZeros : Bool) (width col : Nat) : NumGlyph :=
  let mag := value.natAbs
  let j := width - 1 - col
  if leadingZeros then
    if value < 0 ∧ col = 0 then .minus else .digit (decimalDigit mag j)
  else if j < numDigits mag then .digit (decimalDigit mag j)
  else if j = numDigits mag ∧ value < 0 then .minus
  else .blank

/-- The command that shows a glyph at position `q` (R175). -/
def glyphCommand (c : Config) (q : Nat) : NumGlyph → Instr
  | .digit d => .putc (BitVec.ofNat 8 q) (BitVec.ofNat 8 (0x30 + d))
  | .minus => .setdig (BitVec.ofNat 8 q) c.minusMask
  | .blank => .setdig (BitVec.ofNat 8 q) 0x0000#16

/-- `display_number start, value, leading_zeros, width` (R174, R175). -/
def displayNumber (c : Config) (start : Nat) (value : Int) (leadingZeros : Bool) (width : Nat) :
    Option (List Instr) :=
  if displayNumberArgsWf start value width then
    some ((List.range width).map (fun col => glyphCommand c (start + col) (numberGlyph value leadingZeros width col)))
  else none

/-- `clear` (R177). -/
def clearMacro : List Instr := [.clr]

/-- `set_brightness level` (R177): the assembler refuses a level above 7. -/
def setBrightness (level : Nat) : Option (List Instr) :=
  if level ≤ 7 then some [.setbrt (BitVec.ofNat 3 level)] else none

/-- `set_power on`, `set_power off` (R177). -/
def setPower (on : Bool) : List Instr := [.setpwr on]

/-- `set_mode_autoinc` (R178). -/
def setModeAutoinc : List Instr := [.cmd modeAutoinc]

/-- What the host does after reset (R223): auto-increment mode, a cleared display, the brightness, the display on. "The
block does none of this by itself and does not check that the host did". -/
def bootSequence (level : Nat) : Option (List Instr) :=
  (setBrightness level).map (fun brt => setModeAutoinc ++ clearMacro ++ [.flush] ++ brt ++ setPower true)

end Sys2Proof.Machine
end

