-- ==== Sys2Proof/Machine/Receiver.lean ====
section
/-! DEFINITION. Two readings the spec derives from the state: what a receiver makes of the line events (43_link_serializer.md
R158, "a check on the serializer, not a description of the controller chip"), and the segment mask of a digit held in
the buffer (R22, R119). No step uses them. -/

namespace Sys2Proof.Machine

/-- A receiver of line events: the levels last seen, whether a start condition is open, the bits sampled since it, and
the frames completed, all oldest first. -/
structure Receiver where
  clk : Bool
  dio : Bool
  inFrame : Bool
  bits : List Bool
  frames : List Frame
  deriving DecidableEq, Repr

/-- Bits regrouped by eight, the first bit = bit 0 (R158). -/
def groupBits : List Bool → Frame
  | b0 :: b1 :: b2 :: b3 :: b4 :: b5 :: b6 :: b7 :: rest =>
    BitVec.ofBoolListLE [b0, b1, b2, b3, b4, b5, b6, b7] :: groupBits rest
  | _ => []

/-- `CLK` seen at a level: a rise inside a frame samples `DIO` (R153, R158). -/
def Receiver.onClk (r : Receiver) (b : Bool) : Receiver :=
  if !r.clk && b && r.inFrame then { r with clk := b, bits := r.bits ++ [r.dio] } else { r with clk := b }

/-- `DIO` seen at a level: its fall while `CLK` is high starts a frame (R152), its rise while `CLK` is high ends it
(R154). The last bit sampled, inside STOP, is no data bit (R158). -/
def Receiver.onDio (r : Receiver) (b : Bool) : Receiver :=
  if r.clk && r.dio && !b then { r with dio := b, inFrame := true, bits := [] }
  else if r.clk && !r.dio && b && r.inFrame then
    { r with dio := b, inFrame := false, bits := [], frames := r.frames ++ [groupBits r.bits.dropLast] }
  else { r with dio := b }

/-- One line event seen. -/
def Receiver.see (r : Receiver) : LineEvent → Receiver
  | .mode _ => r
  | .dio b => r.onDio b
  | .clk b => r.onClk b
  | .hold => r

/-- Line events seen in order. -/
def Receiver.seeAll (r : Receiver) (es : List LineEvent) : Receiver := es.foldl Receiver.see r

/-- A receiver outside a frame that has seen nothing, the lines at some levels. -/
def Receiver.fresh (clk dio : Bool) : Receiver where
  clk := clk
  dio := dio
  inFrame := false
  bits := []
  frames := []

/-- `digit_mask(d)` (R22, R119): in `SEG16` bit `s` of it is bit `d` of `ROW[s]`; in `SEG7` it is the row, zero-extended. -/
def State.digitMask (s : State) (d : Nat) : Mask :=
  match s.cfg.topo with
  | .seg16 => BitVec.ofFnLE (fun k : Fin 16 => (s.getRow k).getLsbD d)
  | .seg7 => (s.getRow d).setWidth 16

end Sys2Proof.Machine
end

