-- ==== Sys2Proof/Safety.lean ====
section
/-! DEFINITION. The invariant of the machine, when a run is over or stuck, and what is observed of it (R18, R24, R142,
R192, R232). -/

namespace Sys2Proof.Machine

/-- The shapes a frame can have (R79, R142): one byte, or `R + 1` bytes the first of which is `ADDR_CMD`. -/
def FrameShape (c : Config) (f : Frame) : Prop :=
  f.length = 1 ∨ (f.length = c.rowCount + 1 ∧ f.head? = some addrCmd)

/-- What holds of the machine between any two steps. -/
structure State.Inv (s : State) : Prop where
  /-- R10, R11. -/
  cfg_wf : s.cfg.Wf
  /-- Equal buffers are equal data. -/
  buf_wf : Memory.wf s.buf
  /-- Only the rows `0..R-1` exist (R21). -/
  buf_rows : ∀ c ∈ s.buf, c.1 < s.cfg.rowCount
  /-- R24: no row has a bit outside `ROWMASK`. -/
  rows_masked : ∀ a, Memory.read s.buf a &&& ~~~ s.cfg.rowMask = 0#8
  /-- R28: bits 7:2 are never written. -/
  status_reserved : s.status &&& ~~~ statusBits = 0#8
  /-- R142. -/
  txlog_shape : ∀ f ∈ s.txlog, FrameShape s.cfg f
  /-- A waiting frame has the shape of one that is logged later. -/
  emitting_shape : ∀ f ∈ s.emitting, FrameShape s.cfg f
  /-- R156: with the serializer no command ever waits. -/
  emitting_link : s.cfg.link = .serializer → s.emitting = none
  /-- R33: "Between frames `LSTATE = IDLE`". -/
  lstate_idle : s.lstate = .idle
  /-- R33: "and `LINEMODE = PERIPH`". -/
  linemode_periph : s.linemode = .periph

/-- What a receiver of the lines has got agrees with the frame log: every logged frame, in order, and no frame left
open (R158). -/
structure State.LinesCarryFrames (s : State) : Prop where
  frames_eq : ((Receiver.fresh false false).seeAll s.linelog).frames = s.txlog
  closed : ((Receiver.fresh false false).seeAll s.linelog).inFrame = false

/-- The events R150 to R155 list for one byte: bit 0 first, five events a bit. -/
def byteEvents (b : Byte) : List LineEvent :=
  (List.range 8).flatMap (fun k => [.clk false, .dio (b.getLsbD k), .hold, .clk true, .hold])

/-- The events R150 lists for one frame: ACQUIRE, START, the bytes, STOP, RELEASE. -/
def frameEvents (f : Frame) : List LineEvent :=
  [.mode .gpio, .dio true, .clk true, .hold, .dio false] ++ f.flatMap byteEvents
    ++ [.clk false, .dio false, .hold, .clk true, .hold, .dio true, .hold, .mode .periph]

/-- The state after the serializer has sent one frame and the frame is logged: what R30, R150, R154 and R155 leave. -/
def State.sent (s : State) (f : Frame) : State :=
  { s with
    txlog := s.txlog ++ [f]
    linelog := s.linelog ++ frameEvents f
    lstate := .idle
    linemode := .periph
    clk := true
    dio := true }

/-- R232: the run is over. -/
abbrev State.finished (s : State) : Prop :=
  s.pending = [] ∧ s.emitting = none ∧ s.lstate = .idle ∧ s.linemode = .periph

/-- R192: a frame waits on a link that never takes it. -/
abbrev State.stuck (s : State) : Prop := s.emitting ≠ none ∧ s.linkTakes = []

/-- D16's premise for a run without an undefined command: "`ILL = 0`". -/
abbrev State.noIllegal (s : State) : Prop := s.status &&& illBit = 0#8

/-- A frame offered now is taken within the command: the serializer with the peripheral idle, or an external link that
takes at once. -/
abbrev State.linkReady (s : State) : Prop :=
  (s.cfg.link = .serializer ∧ s.periphBusy = false) ∨ (s.cfg.link = .external ∧ s.linkTakes.head? = some true)

/-- The `RSP` values of R232: one after each command that completes within `k` steps. -/
def rspSequence : Nat → State → List Word
  | 0, _ => []
  | k + 1, s =>
    match step s with
    | .next t =>
      if (s.pending ≠ [] ∨ s.emitting ≠ none) ∧ t.emitting = none then t.rsp :: rspSequence k t else rspSequence k t
    | .fault _ => []
    | .refused _ => []

/-- The observation of a finished run (R232), `RSP` apart. -/
structure Observation where
  txlog : List Frame
  linelog : List LineEvent
  rows : List Byte
  dispctl : BitVec 4
  status : BitVec 8
  result : BitVec 16
  deriving DecidableEq, Repr

/-- What is observed of a state (R232). -/
def State.observe (s : State) : Observation where
  txlog := s.txlog
  linelog := s.linelog
  rows := (List.range s.cfg.rowCount).map (Memory.read s.buf)
  dispctl := s.dispctl
  status := statusRead s.status
  result := s.result

end Sys2Proof.Machine
end

