-- ==== Sys2Proof/Certificates/Slice0/Obligations.lean ====
section
/-! DEFINITION. What the provers prove of the machine. Each docstring names the rule or section of spec/ it comes from.
Statements over every state hold in states no run reaches; where an invariant is needed, it is a premise and
Obligations.StepKeepsTheInvariant states it. -/

open Sys2Proof Sys2Proof.Machine

/-! ## Names used by the statements -/

/-- The bits of a command word that a command with this opcode looks at (30_encoding.md R71 to R73). -/
def readBits (op : Byte) : Word :=
  if op = 0x01#8 then 0xFF0000FF#32
  else if op = 0x02#8 then 0xFFFFFFFF#32
  else if op = 0x03#8 then 0xFFFF0000#32
  else if op = 0x04#8 then 0xFFFF00FF#32
  else if op = 0x05#8 then 0xFF000000#32
  else if op = 0x06#8 then 0xFF000000#32
  else if op = 0x07#8 then 0xFFFF0000#32
  else if op = 0x08#8 then 0xFF070000#32
  else if op = 0x09#8 then 0xFF010000#32
  else 0xFF000000#32

/-- `t` is `s` after its link has taken the frame `f` at once: over the serializer the line events of R150 and the
levels of R154 with it, over an external link one of its answers used (a list of answers is log entry 7). Nothing else
differs. -/
def Delivered (s : State) (f : Frame) (t : State) : Prop :=
  (s.cfg.link = .serializer ∧ t = { s with
      txlog := s.txlog ++ [f], linelog := s.linelog ++ frameEvents f, lstate := .idle, linemode := .periph,
      clk := true, dio := true }) ∨
  (s.cfg.link = .external ∧ ∃ rest, s.linkTakes = true :: rest ∧
    t = { s with txlog := s.txlog ++ [f], linkTakes := rest, emitting := none })

/-- The commands that emit a frame, with the frame each sends from `s` and the display-control register it leaves. That
the four K rows are among them is log entry 5. -/
inductive Emits (s : State) : Instr → Frame → BitVec 4 → Prop where
  | flush : Emits s .flush
      (0xC0#8 :: (List.range s.cfg.rowCount).map (fun i => Memory.read s.buf i &&& s.cfg.rowMask)) s.dispctl
  | cmd (byte : Byte) : Emits s (.cmd byte) [byte] s.dispctl
  | setbrt (level : BitVec 3) (d : BitVec 4) (hl : ∀ i < 3, d.getLsbD i = level.getLsbD i)
      (hp : d.getLsbD 3 = s.dispctl.getLsbD 3) : Emits s (.setbrt level) [0b1000#4 ++ d] d
  | setpwr (on : Bool) (d : BitVec 4) (hp : d.getLsbD 3 = on)
      (hl : ∀ i < 3, d.getLsbD i = s.dispctl.getLsbD i) : Emits s (.setpwr on) [0b1000#4 ++ d] d
  | kMode (u : BitVec 6) : Emits s (.kMode u) [0b01#2 ++ u] s.dispctl
  | kDispctl (u : BitVec 2) (pwr : Bool) (brt : BitVec 3) :
      Emits s (.kDispctl u pwr brt) [0b10#2 ++ u ++ BitVec.ofBool pwr ++ brt] s.dispctl
  | kAddr (u : BitVec 6) : Emits s (.kAddr u) [0b11#2 ++ u] s.dispctl
  | kReserved (u : BitVec 6) : Emits s (.kReserved u) [0b00#2 ++ u] s.dispctl

/-! ## Encoding -/

/-- Words written out from spec/opcode_table.json, one for each row, read as their instructions. -/
def Obligations.TableWordsDecodeToTheirRows : Prop :=
  decodeTableWord 32 0b00000001_00000000_00000000_01000001 = some (.lookup 0x41#8) ∧
  decodeTableWord 32 0b00000010_00000101_11111111_00000001 = some (.setdig 0x05#8 0xFF01#16) ∧
  decodeTableWord 32 0b00000011_00001001_00000000_00000000 = some (.getrow 0x09#8) ∧
  decodeTableWord 32 0b00000100_00000010_00000000_01001000 = some (.putc 0x02#8 0x48#8) ∧
  decodeTableWord 32 0b00000101_00000000_00000000_00000000 = some .clr ∧
  decodeTableWord 32 0b00000110_00000000_00000000_00000000 = some .flush ∧
  decodeTableWord 32 0b00000111_01000000_00000000_00000000 = some (.cmd 0x40#8) ∧
  decodeTableWord 32 0b00001000_00001101_00000000_00000000 = some (.setbrt 0b101#3) ∧
  decodeTableWord 32 0b00001001_00000011_00000000_00000000 = some (.setpwr true) ∧
  decodeTableWord 8 0b01_000101 = some (.kMode 0b000101#6) ∧
  decodeTableWord 8 0b10_01_1_101 = some (.kDispctl 0b01#2 true 0b101#3) ∧
  decodeTableWord 8 0b11_000000 = some (.kAddr 0#6) ∧
  decodeTableWord 8 0b00_100001 = some (.kReserved 0b100001#6) ∧
  decodeTableWord 32 0 = none ∧
  decodeTableWord 32 0b00001010_00000000_00000000_00000000 = none

/-- Decoding an encoded instruction gives it back, every operand at every value (30_encoding.md sections 1 and 5). -/
def Obligations.DecodeOfEncodeIsIdentity : Prop := ∀ i : Instr, decode (encode i) = .ok i

/-- A command word is decoded exactly when its opcode is one of `0x01` to `0x09`; any other is rejected with that opcode
(30_encoding.md section 1 and section 3). -/
def Obligations.WordDecodesExactlyForTheNineOpcodes : Prop :=
  ∀ cw : Word,
    ((1 ≤ (opField cw).toNat ∧ (opField cw).toNat ≤ 9) → ∃ i, decodeWord cw = .ok i) ∧
    (¬ (1 ≤ (opField cw).toNat ∧ (opField cw).toNat ≤ 9) → decodeWord cw = .error (.undefinedOpcode (opField cw)))

/-- Re-encoding a decoded word gives the word with its ignored bits 0, and two decoded words are the same command exactly
when they agree on the bits their opcodes read (30_encoding.md section 1, unused operand bits). -/
def Obligations.IgnoredBitsAndOnlyThoseAreIgnored : Prop :=
  (∀ (cw : Word) (i : Instr), decodeWord cw = .ok i → encode i = .word (cw &&& readBits (opField cw))) ∧
  (∀ (cw cw' : Word) (i i' : Instr), decodeWord cw = .ok i → decodeWord cw' = .ok i' →
    (i = i' ↔ cw &&& readBits (opField cw) = cw' &&& readBits (opField cw')))

/-- Every controller command byte is in one family, chosen by its top two bits, and keeps all its bits (30_encoding.md
section 5). -/
def Obligations.ControllerByteKeepsAllItsBits : Prop :=
  ∀ k : Byte, decode (.byte k) = .ok (decodeByte k) ∧ encode (decodeByte k) = .byte k

/-- The assembler's words are those of 30_encoding.md section 6, and an operand that does not fit its field is refused. -/
def Obligations.AssemblerWordsAndRefusals : Prop :=
  (∀ chr, chr ≤ 255 → (assemble (.lookup chr)).map encode = some (.word (BitVec.ofNat 32 (0x01 * 2 ^ 24 + chr)))) ∧
  (∀ pos mask, pos ≤ 255 → mask ≤ 0xFFFF →
    (assemble (.setdig pos mask)).map encode = some (.word (BitVec.ofNat 32 (0x02 * 2 ^ 24 + pos * 2 ^ 16 + mask)))) ∧
  (∀ row, row ≤ 255 →
    (assemble (.getrow row)).map encode = some (.word (BitVec.ofNat 32 (0x03 * 2 ^ 24 + row * 2 ^ 16)))) ∧
  (∀ pos chr, pos ≤ 255 → chr ≤ 255 →
    (assemble (.putc pos chr)).map encode = some (.word (BitVec.ofNat 32 (0x04 * 2 ^ 24 + pos * 2 ^ 16 + chr)))) ∧
  (assemble .clr).map encode = some (.word 0x05000000#32) ∧
  (assemble .flush).map encode = some (.word 0x06000000#32) ∧
  (∀ byte, byte ≤ 255 →
    (assemble (.cmd byte)).map encode = some (.word (BitVec.ofNat 32 (0x07 * 2 ^ 24 + byte * 2 ^ 16)))) ∧
  (∀ level, level ≤ 7 →
    (assemble (.setbrt level)).map encode = some (.word (BitVec.ofNat 32 (0x08 * 2 ^ 24 + level * 2 ^ 16)))) ∧
  (∀ on, on ≤ 1 → (assemble (.setpwr on)).map encode = some (.word (BitVec.ofNat 32 (0x09 * 2 ^ 24 + on * 2 ^ 16)))) ∧
  (∀ n m, 255 < n → assemble (.lookup n) = none ∧ assemble (.getrow n) = none ∧ assemble (.cmd n) = none ∧
    assemble (.setdig n m) = none ∧ assemble (.putc n m) = none ∧ assemble (.putc m n) = none) ∧
  (∀ pos mask, 0xFFFF < mask → assemble (.setdig pos mask) = none) ∧
  (∀ level, 7 < level → assemble (.setbrt level) = none) ∧
  (∀ on, 1 < on → assemble (.setpwr on) = none)

/-! ## The step -/

/-- With the port free, a step takes the host's next item and, where it decodes to `i`, is `exec i` at the state without
that item (10_state.md section 5, 20_memory.md section 5; a list as the host is the model's choice, log entry 4). -/
def Obligations.StepRunsTheDecodedCommand : Prop :=
  ∀ (s : State) (item : PortItem) (rest : List PortItem) (i : Instr),
    s.emitting = none → s.pending = item :: rest → decode item = .ok i → step s = exec i { s with pending := rest }

/-- The bits of an opcode-table row put at the command port are run by the very next step (the model's own port, log
entry 4). -/
def Obligations.FetchedTableWordIsExecuted : Prop :=
  ∀ (s : State) (nbits w : Nat) (i : Instr),
    decodeTableWord nbits w = some i → step (s.withFetchWord nbits w) = exec i { s with emitting := none }

/-- A command word whose opcode is none of `0x01` to `0x09` sets `STATUS.ILL`, bit 1, and changes nothing else
(30_encoding.md section 3, 60_exceptions.md section 1; the spec's own choice D16, log entry 9). -/
def Obligations.UndefinedWordSetsIllAndNothingElse : Prop :=
  ∀ (s : State) (cw : Word) (rest : List PortItem),
    s.emitting = none → s.pending = .word cw :: rest → ¬ (1 ≤ (opField cw).toNat ∧ (opField cw).toNat ≤ 9) →
      step s = .next { s with pending := rest, status := s.status ||| 0b10#8 }

/-- While a frame waits on the link no item is accepted: the link takes the frame, or does not yet, or never does and
the block is stuck (60_exceptions.md section 1; a stuck block as a named fault is the model's choice, log entry 7). -/
def Obligations.StalledPortOnlyAsksTheLink : Prop :=
  ∀ (s : State) (f : Frame), s.emitting = some f →
    (∀ rest, s.linkTakes = true :: rest →
      step s = .next { s with txlog := s.txlog ++ [f], linkTakes := rest, emitting := none }) ∧
    (∀ rest, s.linkTakes = false :: rest → step s = .next { s with linkTakes := rest }) ∧
    (s.linkTakes = [] → step s = .fault .busHang)

/-! ## LOOKUP -/

/-- LOOKUP sets FOUND and gives the mask of the first entry of the active font with the key, or clears FOUND and gives 0
where there is none; the key is upper-cased in `SEG7` and as it stands in `SEG16`. Nothing else changes
(40_font_lookup.md section 2, its pseudocode and its testable property; that a miss leaves 0 in RESULT "is this spec's
choice" there, D11 of 92_eei_decisions.md). -/
def Obligations.LookupGivesTheFirstMatch : Prop :=
  ∀ (s : State) (chr key : Byte) (font : List Glyph),
    ((s.cfg.topo = .seg16 ∧ font = s.cfg.font16 ∧ key = chr) ∨
      (s.cfg.topo = .seg7 ∧ font = s.cfg.font7 ∧ key = upcase chr)) →
    (∀ (before after : List Glyph) (g : Glyph), font = before ++ g :: after → g.character = key →
      (∀ h ∈ before, h.character ≠ key) →
        exec (.lookup chr) s = .next { s with status := s.status ||| 0b1#8, result := g.mask }) ∧
    ((∀ g ∈ font, g.character ≠ key) →
      exec (.lookup chr) s = .next { s with status := s.status &&& 0b11111110#8, result := 0x0000#16 })

/-- `upcase` moves the codes `0x61` to `0x7A` down by `0x20` and no other code (00_scope.md section 6). -/
def Obligations.UpcaseMovesOnlyLowerCaseLetters : Prop :=
  ∀ c : Byte,
    ((0x61 ≤ c.toNat ∧ c.toNat ≤ 0x7A) → (upcase c).toNat = c.toNat - 0x20) ∧
    (¬ (0x61 ≤ c.toNat ∧ c.toNat ≤ 0x7A) → upcase c = c)

/-- Under `Config.fontsOk`: in `SEG7` exactly the digits and the letters of either case are found, a lower-case letter as
its upper-case one; in `SEG16` digits and upper-case letters are found and lower-case letters are not (40_font_lookup.md
section 2, corner cases). The premise is what 40_font_lookup.md section 1 lets a model take on the fonts, with one choice
of the model's in it: which characters of the 16-segment font are punctuation the spec leaves open, and the premise takes
them to be printable ASCII (PRESUMED, log entry 14). -/
def Obligations.LookupUnderTheFontPremises : Prop :=
  ∀ (s : State) (chr : Byte), s.cfg.fontsOk = true → ∃ t, exec (.lookup chr) s = .next t ∧
    (s.cfg.topo = .seg7 → (t.status.getLsbD 0 = true ↔ isAlnum chr = true ∨ isLower chr = true) ∧
      (isLower chr = true → exec (.lookup (chr - 0x20#8)) s = .next t)) ∧
    (s.cfg.topo = .seg16 → (isAlnum chr = true → t.status.getLsbD 0 = true) ∧
      (isLower chr = true → t.status.getLsbD 0 = false ∧ t.result = 0#16))

/-- FOUND and RESULT after LOOKUP depend on the topology, the active font and the character alone (40_font_lookup.md
section 2, corner case (g)). -/
def Obligations.LookupReadsOnlyTheActiveFont : Prop :=
  ∀ (s s' : State) (chr : Byte),
    s.cfg.topo = s'.cfg.topo →
    (s.cfg.topo = .seg16 → s.cfg.font16 = s'.cfg.font16) → (s.cfg.topo = .seg7 → s.cfg.font7 = s'.cfg.font7) →
      ∃ t t', exec (.lookup chr) s = .next t ∧ exec (.lookup chr) s' = .next t' ∧
        t.result = t'.result ∧ t.status.getLsbD 0 = t'.status.getLsbD 0

/-! ## SETDIG -/

/-- R111. SETDIG in `SEG16`: its word, and the transposed write of one digit's column; a digit index out of range does
nothing. Only the buffer changes, in its 16 rows only. -/
def Obligations.SetdigTransposesInSeg16 : Prop :=
  (∀ cw : Word, opField cw = 0x02#8 → decode (.word cw) = .ok (.setdig (cw.extractLsb' 16 8) (cw.extractLsb' 0 16))) ∧
  ∀ (s : State) (pos : Byte) (mask : Mask), s.cfg.topo = .seg16 → Memory.wf s.buf →
    (pos.toNat < s.cfg.digits → ∃ b : Memory, exec (.setdig pos mask) s = .next { s with buf := b } ∧ Memory.wf b ∧
      (∀ row < 16, Memory.read b row =
        if mask.getLsbD row then (Memory.read s.buf row ||| 1#8 <<< pos.toNat) &&& BitVec.ofNat 8 (2 ^ s.cfg.digits - 1)
        else (Memory.read s.buf row &&& ~~~ (1#8 <<< pos.toNat)) &&& BitVec.ofNat 8 (2 ^ s.cfg.digits - 1)) ∧
      (∀ row, 16 ≤ row → Memory.read b row = Memory.read s.buf row)) ∧
    (s.cfg.digits ≤ pos.toNat → exec (.setdig pos mask) s = .next s)

/-- SETDIG in `SEG16`: the digit's bit of every row read back is the mask's bit, every other digit's bit is as it was,
and an index out of range leaves the state as it was (41_buffer_transposer.md section 2, properties (a) to (c)). -/
def Obligations.SetdigRoundTripAndLocality : Prop :=
  ∀ (s : State) (pos : Byte) (mask : Mask), s.cfg.topo = .seg16 → s.Inv →
    (pos.toNat < s.cfg.digits → ∃ t, exec (.setdig pos mask) s = .next t ∧
      ∀ row < 16, (t.getRow row).getLsbD pos.toNat = mask.getLsbD row ∧
        ∀ d < 8, d ≠ pos.toNat → (Memory.read t.buf row).getLsbD d = (Memory.read s.buf row).getLsbD d) ∧
    (s.cfg.digits ≤ pos.toNat → exec (.setdig pos mask) s = .next s)

/-- SETDIG overwrites: a second SETDIG of the same position leaves what it alone would leave (so twice is once), and two
SETDIGs of different positions commute, in both topologies (41_buffer_transposer.md section 2, properties (d), (e)). -/
def Obligations.SetdigOverwritesAndCommutes : Prop :=
  ∀ (s : State) (p q : Byte) (m n : Mask), s.Inv →
    ∃ sp sq spq sqp, exec (.setdig p m) s = .next sp ∧ exec (.setdig q n) s = .next sq ∧
      exec (.setdig q n) sp = .next spq ∧ exec (.setdig p m) sq = .next sqp ∧
      (p = q → spq = sq) ∧ (p ≠ q → spq = sqp)

/-- SETDIG in `SEG7`: the mask's low byte goes into the row, untransposed; a row out of range does nothing
(41_buffer_transposer.md section 2). -/
def Obligations.SetdigWritesTheRowInSeg7 : Prop :=
  ∀ (s : State) (pos : Byte) (mask : Mask), s.cfg.topo = .seg7 → Memory.wf s.buf →
    (pos.toNat < s.cfg.rows7 → ∃ b : Memory, exec (.setdig pos mask) s = .next { s with buf := b } ∧ Memory.wf b ∧
      ∀ row, Memory.read b row = if row = pos.toNat then mask.extractLsb' 0 8 else Memory.read s.buf row) ∧
    (s.cfg.rows7 ≤ pos.toNat → exec (.setdig pos mask) s = .next s)

/-- After SETDIG the mask of the position read back from the rows is the one written (its low byte in `SEG7`), and
every other position's is as it was (10_state.md section 2, 41_buffer_transposer.md section 4). -/
def Obligations.DigitMaskAfterSetdig : Prop :=
  ∀ (s : State) (pos : Byte) (mask : Mask), s.Inv → pos.toNat < s.cfg.posCount →
    ∃ t, exec (.setdig pos mask) s = .next t ∧
      (s.cfg.topo = .seg16 → t.digitMask pos.toNat = mask) ∧
      (s.cfg.topo = .seg7 → t.digitMask pos.toNat = (mask.extractLsb' 0 8).setWidth 16) ∧
      ∀ d, d ≠ pos.toNat → t.digitMask d = s.digitMask d

/-! ## GETROW, CLR, PUTC -/

/-- R116. GETROW: its word, and RESULT gets the row masked to its valid bits and zero-extended, or 0 out of range.
Nothing else changes. -/
def Obligations.GetrowReadsTheMaskedRow : Prop :=
  (∀ cw : Word, opField cw = 0x03#8 → decode (.word cw) = .ok (.getrow (cw.extractLsb' 16 8))) ∧
  ∀ (s : State) (row : Byte) (r : Nat) (valid : Byte),
    ((s.cfg.topo = .seg16 ∧ r = 16 ∧ valid = BitVec.ofNat 8 (2 ^ s.cfg.digits - 1)) ∨
      (s.cfg.topo = .seg7 ∧ r = s.cfg.rows7 ∧ valid = 0xFF#8)) →
    (row.toNat < r →
      exec (.getrow row) s = .next { s with result := 0x00#8 ++ (Memory.read s.buf row.toNat &&& valid) }) ∧
    (r ≤ row.toNat → exec (.getrow row) s = .next { s with result := 0x0000#16 })

/-- CLR writes 0 to every row and changes nothing else; with the invariant the buffer is then the reset buffer
(41_buffer_transposer.md section 4). -/
def Obligations.ClrZeroesTheBuffer : Prop :=
  ∀ s : State, Memory.wf s.buf → ∃ b : Memory, exec .clr s = .next { s with buf := b } ∧ Memory.wf b ∧
    (∀ row < s.cfg.rowCount, Memory.read b row = 0#8) ∧
    (∀ row, s.cfg.rowCount ≤ row → Memory.read b row = Memory.read s.buf row) ∧
    (s.Inv → b = (State.resetWith s.cfg).buf)

/-- PUTC leaves what LOOKUP and then SETDIG with the RESULT of that LOOKUP leave (41_buffer_transposer.md section 5). -/
def Obligations.PutcIsLookupThenSetdig : Prop :=
  ∀ (s : State) (pos chr : Byte), ∃ t u, exec (.lookup chr) s = .next t ∧ exec (.setdig pos t.result) t = .next u ∧
    exec (.putc pos chr) s = .next u

/-- PUTC: FOUND and RESULT tell of the character alone, whatever the position; the position shows the mask found, or
blank on a miss (the spec's own choice D9, log entry 15); out of range the buffer is as it was (41_buffer_transposer.md
section 5, 60_exceptions.md section 2). -/
def Obligations.PutcShowsTheCharacter : Prop :=
  ∀ (s : State) (pos chr : Byte) (found : Bool) (m : Mask), s.Inv →
    (s.cfg.lookup chr = some m ∧ found = true ∨ s.cfg.lookup chr = none ∧ found = false ∧ m = 0x0000#16) →
    ∃ t, exec (.putc pos chr) s =
        .next { s with buf := t, result := m, status := (s.status &&& 0b11111110#8) ||| (BitVec.ofBool found).setWidth 8 } ∧
      (s.cfg.posCount ≤ pos.toNat → t = s.buf) ∧
      (pos.toNat < s.cfg.posCount → s.cfg.topo = .seg7 →
        ∀ row, Memory.read t row = if row = pos.toNat then m.extractLsb' 0 8 else Memory.read s.buf row) ∧
      (pos.toNat < s.cfg.posCount → s.cfg.topo = .seg16 →
        ∀ row, ∀ d < 8, (Memory.read t row).getLsbD d =
          if d = pos.toNat ∧ row < 16 then m.getLsbD row else (Memory.read s.buf row).getLsbD d)

/-! ## The frame encoder -/

/-- FLUSH completes where the link takes the frame at once: it sends `ADDR_CMD` and every row in index order, masked, and
changes nothing else (42_frame_encoder.md section 2, 43_link_serializer.md section 1;
an external link's answers, log entry 7). -/
def Obligations.FlushSendsEveryRow : Prop :=
  ∀ s : State, s.linkReady → ∃ t, exec .flush s = .next t ∧
    Delivered s (0xC0#8 :: (List.range s.cfg.rowCount).map (fun i => Memory.read s.buf i &&& s.cfg.rowMask)) t

/-- CMD completes where the link takes the frame at once: it sends its byte, whichever it is, and changes nothing else,
DISPCTL included (42_frame_encoder.md section 3;
an external link's answers, log entry 7). -/
def Obligations.CmdSendsItsByteUnchecked : Prop :=
  ∀ (s : State) (byte : Byte), s.linkReady → ∃ t, exec (.cmd byte) s = .next t ∧ Delivered s [byte] t

/-- SETBRT completes where the link takes the frame at once: `DISPCTL.BRT` gets the level, `DISPCTL.PWR` is kept, the
byte `0b1000, PWR, BRT` is sent, and nothing else changes (42_frame_encoder.md section 4; an external link's answers, log
entry 7). -/
def Obligations.SetbrtSendsTheLevel : Prop :=
  ∀ (s : State) (level : BitVec 3), s.linkReady → ∃ (d : BitVec 4) (t : State),
    d.extractLsb' 0 3 = level ∧ d.getLsbD 3 = s.dispctl.getLsbD 3 ∧
      exec (.setbrt level) s = .next t ∧ Delivered { s with dispctl := d } [0b1000#4 ++ d] t

/-- SETPWR completes where the link takes the frame at once: `DISPCTL.PWR` gets the operand, `DISPCTL.BRT` is kept, the
byte `0b1000, PWR, BRT` is sent, and nothing else changes (42_frame_encoder.md section 4; an external link's answers, log
entry 7). -/
def Obligations.SetpwrSendsThePower : Prop :=
  ∀ (s : State) (on : Bool), s.linkReady → ∃ (d : BitVec 4) (t : State),
    d.getLsbD 3 = on ∧ d.extractLsb' 0 3 = s.dispctl.extractLsb' 0 3 ∧
      exec (.setpwr on) s = .next t ∧ Delivered { s with dispctl := d } [0b1000#4 ++ d] t

/-- The controller command bytes complete where the link takes the frame at once: each is sent as a one-byte frame with
its family bits on top, and nothing else changes, DISPCTL included (30_encoding.md sections 4 and 5; that they run at all is
the model's choice, log entry 5). -/
def Obligations.ControllerBytesAreSentAsFrames : Prop :=
  ∀ s : State, s.linkReady →
    (∀ u, ∃ t, exec (.kMode u) s = .next t ∧ Delivered s [0b01#2 ++ u] t) ∧
    (∀ u pwr brt, ∃ t, exec (.kDispctl u pwr brt) s = .next t ∧
      Delivered s [0b10#2 ++ u ++ BitVec.ofBool pwr ++ brt] t) ∧
    (∀ u, ∃ t, exec (.kAddr u) s = .next t ∧ Delivered s [0b11#2 ++ u] t) ∧
    (∀ u, ∃ t, exec (.kReserved u) s = .next t ∧ Delivered s [0b00#2 ++ u] t)

/-- Where the link takes a frame at once, every command answers a next state. LOOKUP, SETDIG, GETROW, PUTC and CLR append
no frame, and `Emits` gives them none. Every other command appends to TXLOG exactly one frame, the only one that `Emits`
gives it, with the DISPCTL that `Emits` gives it and nothing else changed but the lines (42_frame_encoder.md; that the K
rows are such commands is the model's choice, log entry 5). -/
def Obligations.EveryEmitterHasOneFrame : Prop :=
  ∀ (s : State) (i : Instr), s.linkReady → ∃ t, exec i s = .next t ∧
    ((∃ c, i = .lookup c) ∨ (∃ p m, i = .setdig p m) ∨ (∃ r, i = .getrow r) ∨ (∃ p c, i = .putc p c) ∨ i = .clr →
      t.txlog = s.txlog ∧ ∀ f d, ¬ Emits s i f d) ∧
    ((∀ c, i ≠ .lookup c) → (∀ p m, i ≠ .setdig p m) → (∀ r, i ≠ .getrow r) → (∀ p c, i ≠ .putc p c) → i ≠ .clr →
      ∃ f d, t.txlog = s.txlog ++ [f] ∧ Emits s i f d ∧ Delivered { s with dispctl := d } f t ∧
        ∀ f' d', Emits s i f' d' → f' = f ∧ d' = d)

/-- R132. The frame FLUSH appends has `R + 1` bytes, begins with `0xC0`, and its other bytes are what GETROW gives for
each row in order, in the same state. -/
def Obligations.FlushFrameIsGetrowInOrder : Prop :=
  ∀ s : State, s.cfg.Wf → s.linkReady →
    ∃ t f, exec .flush s = .next t ∧ t.txlog = s.txlog ++ [f] ∧ f.length = s.cfg.rowCount + 1 ∧ f[0]? = some 0xC0#8 ∧
      ∀ i < s.cfg.rowCount, ∃ u, exec (.getrow (BitVec.ofNat 8 i)) s = .next u ∧
        f[1 + i]? = some (u.result.extractLsb' 0 8)

/-- FLUSH after CLR sends `0xC0` and `R` zero bytes (42_frame_encoder.md section 2, corner case (a)). -/
def Obligations.FlushAfterClrSendsZeros : Prop :=
  ∀ s : State, Memory.wf s.buf → s.linkReady →
    ∃ t u, exec .clr s = .next t ∧ exec .flush t = .next u ∧
      u.txlog = s.txlog ++ [0xC0#8 :: List.replicate s.cfg.rowCount 0#8]

/-- Where the link takes two frames at once: switching a display that is on off and on again leaves DISPCTL as it was and
sends the display-control byte with the power bit clear and then the one with it set; and another brightness and back
leaves DISPCTL as it was, the power bit never touched (42_frame_encoder.md section 4, corner cases; the answers of an
external link are a list by log entry 7). -/
def Obligations.PowerCycleKeepsTheBrightness : Prop :=
  ∀ s : State,
    (s.cfg.link = .serializer ∧ s.periphBusy = false ∨ s.cfg.link = .external ∧ s.linkTakes.take 2 = [true, true]) →
    (s.dispctl.getLsbD 3 = true →
      ∃ t u, exec (.setpwr false) s = .next t ∧ exec (.setpwr true) t = .next u ∧ u.dispctl = s.dispctl ∧
        u.txlog = s.txlog ++ [[0x80#8 ||| (s.dispctl &&& 0b0111#4).setWidth 8], [0x80#8 ||| s.dispctl.setWidth 8]]) ∧
    (∀ level : BitVec 3,
      ∃ t u, exec (.setbrt level) s = .next t ∧ exec (.setbrt (s.dispctl.extractLsb' 0 3)) t = .next u ∧
        t.dispctl.getLsbD 3 = s.dispctl.getLsbD 3 ∧ t.dispctl.extractLsb' 0 3 = level ∧ u.dispctl = s.dispctl ∧
        u.txlog = s.txlog ++ [[0x80#8 ||| t.dispctl.setWidth 8], [0x80#8 ||| s.dispctl.setWidth 8]])

/-- An external link that does not take the frame: the command's own register is written, the frame is not logged and
waits; a link that never takes it leaves the block stuck at the next step (60_exceptions.md section 1). The list of
answers, its end as "never", and the fault busHang for the stuck block are the model's choice, log entry 7; that the K
rows emit is log entry 5. -/
def Obligations.UntakenFrameWaits : Prop :=
  ∀ (s : State) (i : Instr) (f : Frame) (d : BitVec 4), s.cfg.link = .external → Emits s i f d →
    (∀ rest, s.linkTakes = false :: rest →
      exec i s = .next { s with dispctl := d, linkTakes := rest, emitting := some f }) ∧
    (s.linkTakes = [] → exec i s = .next { s with dispctl := d, emitting := some f } ∧
      step { s with dispctl := d, emitting := some f } = .fault .busHang)

/-- A frame that waits on a link which refuses it `n` times and then takes it is logged after `n + 1` steps, with
nothing else changed (60_exceptions.md section 1, 10_state.md section 5: the port is stalled until the link has taken the
whole frame). The list of answers and one offer a step, so the count `n + 1`, are the model's choice, log entry 7. -/
def Obligations.SlowLinkTakesTheFrameInTheEnd : Prop :=
  ∀ (s : State) (f : Frame) (n : Nat) (rest : List Bool),
    s.emitting = some f → s.linkTakes = List.replicate n false ++ true :: rest →
      Sys2Proof.core.run (n + 1) s =
        .next { s with txlog := s.txlog ++ [f], linkTakes := rest, emitting := none }

/-- Over the serializer, a frame-emitting command while the addressed-byte peripheral is in mid-transaction has no
meaning: the spec forbids it and gives no effect (70_reset_and_hazards.md section 3; the model's refusal, log entry 8;
that the K rows emit, log entry 5). -/
def Obligations.BusyPeripheralStopsEmitters : Prop :=
  ∀ (s : State) (i : Instr) (f : Frame) (d : BitVec 4), s.cfg.link = .serializer → s.periphBusy = true → Emits s i f d →
    exec i s = .refused .peripheralBusy

/-! ## The line serializer -/

/-- A frame of `n` bytes takes `13 + 40 n` line events: after any command that sends one over the serializer the line log
has grown by so many (43_link_serializer.md section 1; that the K rows send one is log entry 5). -/
def Obligations.FrameTakes13Plus40NLineEvents : Prop :=
  ∀ (s : State) (i : Instr) (f : Frame) (d : BitVec 4),
    s.cfg.link = .serializer → s.periphBusy = false → Emits s i f d →
      ∃ t, exec i s = .next t ∧ t.linelog.length = s.linelog.length + 13 + 40 * f.length ∧
        t.linelog.take s.linelog.length = s.linelog

/-- The phases of one frame, in order: ACQUIRE takes the lines, START leaves CLK high and DIO low, BYTE leaves CLK high and
DIO at bit 7, STOP leaves both high and LSTATE at IDLE, RELEASE gives the lines back; the lines are held from ACQUIRE to
RELEASE, and each phase appends its own events (43_link_serializer.md section 1). -/
def Obligations.SerializerPhasesInOrder : Prop :=
  ∀ (s : State) (f : Frame) (i : Nat) (b : Byte),
    s.serialize f = ((s.acquire.startCondition.sendBytes 0 f).stopCondition).release ∧
    (s.acquire.linemode = .gpio ∧ s.acquire.lstate = s.lstate ∧ s.acquire.linelog = s.linelog ++ [.mode .gpio]) ∧
    (s.startCondition.lstate = .start ∧ s.startCondition.linemode = s.linemode ∧ s.startCondition.clk = true ∧
      s.startCondition.dio = false ∧
      s.startCondition.linelog = s.linelog ++ [.dio true, .clk true, .hold, .dio false]) ∧
    ((s.sendByte i b).lstate = .byte i 7 ∧ (s.sendByte i b).linemode = s.linemode ∧ (s.sendByte i b).clk = true ∧
      (s.sendByte i b).dio = b.getLsbD 7 ∧
      (s.sendByte i b).linelog = s.linelog ++ (List.range 8).flatMap
        (fun k => [.clk false, .dio (b.getLsbD k), .hold, .clk true, .hold])) ∧
    (s.stopCondition.lstate = .idle ∧ s.stopCondition.linemode = s.linemode ∧ s.stopCondition.clk = true ∧
      s.stopCondition.dio = true ∧
      s.stopCondition.linelog =
        s.linelog ++ [.clk false, .dio false, .hold, .clk true, .hold, .dio true, .hold]) ∧
    (s.release.linemode = .periph ∧ s.release.lstate = s.lstate ∧ s.release.linelog = s.linelog ++ [.mode .periph])

/-- Receiving what the serializer sends for a frame gives the frame back, whatever the lines' levels before it, and
leaves both lines high and no frame open (43_link_serializer.md section 2). -/
def Obligations.ReceiveOfSerializeIsIdentity : Prop :=
  ∀ (f : Frame) (clk dio : Bool),
    (Receiver.fresh clk dio).seeAll (frameEvents f) = { Receiver.fresh true true with frames := [f] }

/-- The frame `[0x40]` gives the 53 line events of the worked example (43_link_serializer.md section 3). -/
def Obligations.WorkedFrame40LineEvents : Prop :=
  frameEvents [0x40#8] =
    [.mode .gpio, .dio true, .clk true, .hold, .dio false]
    ++ (List.replicate 6 [LineEvent.clk false, .dio false, .hold, .clk true, .hold]).flatten
    ++ [.clk false, .dio true, .hold, .clk true, .hold]
    ++ [.clk false, .dio false, .hold, .clk true, .hold]
    ++ [.clk false, .dio false, .hold, .clk true, .hold, .dio true, .hold, .mode .periph]

/-- Over the serializer, at every step what a receiver has got from the line log is the frame log
(43_link_serializer.md section 2). -/
def Obligations.StepKeepsLinesCarryingFrames : Prop :=
  ∀ s t : State, s.cfg.link = .serializer → s.emitting = none → s.LinesCarryFrames → step s = .next t →
    t.cfg.link = .serializer ∧ t.emitting = none ∧ t.LinesCarryFrames

/-- With nothing sent yet the line log carries the frame log, and no frame waits, under any parameters (that none waits is
read from "Reset emits no frame", log entry 20). -/
def Obligations.ResetLinesCarryFrames : Prop :=
  ∀ c : Config, (State.resetWith c).LinesCarryFrames ∧ (State.resetWith c).emitting = none

/-! ## Whole-machine rules -/

/-- What reset leaves (10_state.md section 9), under any parameters; State.reset is one of these states. The buffer's value
is the source's, the others are the spec's own choice (D18, D25). What the model chose is not mentioned: CLK and DIO,
which the spec leaves unspecified (log entry 3), and the inputs (log entries 4, 8, 20). -/
def Obligations.ResetValues : Prop :=
  (∃ c, State.reset = State.resetWith c) ∧
  ∀ c : Config, ∀ s, s = State.resetWith c →
    (∀ row, Memory.read s.buf row = 0x00#8) ∧ s.dispctl = 0x0#4 ∧ s.status = 0x00#8 ∧ s.result = 0x0000#16 ∧
    s.txlog = [] ∧ s.lstate = .idle ∧ s.linemode = .periph ∧ s.linelog = []

/-- The invariant holds after reset, under any legal parameters. -/
def Obligations.ResetMeetsTheInvariant : Prop :=
  State.reset.Inv ∧ ∀ c : Config, c.Wf → (State.resetWith c).Inv

/-- Every step keeps the invariant: legal parameters, the buffer's canonical form, no row outside `0..R-1`, no bit
outside `ROWMASK`, STATUS bits 7:2 zero, frames of the two shapes, the serializer at rest. -/
def Obligations.StepKeepsTheInvariant : Prop := ∀ s t : State, s.Inv → step s = .next t → t.Inv

/-- Once `STATUS.ILL` is set no step clears it (10_state.md section 4). -/
def Obligations.IllIsSticky : Prop :=
  ∀ s t : State, s.status.getLsbD 1 = true → step s = .next t → t.status.getLsbD 1 = true

/-- No command sets `STATUS.ILL` or writes STATUS bits 7:2; only LOOKUP and PUTC write FOUND; only LOOKUP, PUTC and
GETROW write RESULT (10_state.md section 4). -/
def Obligations.WritersOfStatusAndResult : Prop :=
  ∀ (i : Instr) (s t : State), exec i s = .next t →
    (∀ b, b ≠ 0 → t.status.getLsbD b = s.status.getLsbD b) ∧
    ((∀ c, i ≠ .lookup c) → (∀ p c, i ≠ .putc p c) → t.status = s.status) ∧
    ((∀ c, i ≠ .lookup c) → (∀ p c, i ≠ .putc p c) → (∀ r, i ≠ .getrow r) → t.result = s.result)

/-- Only SETBRT and SETPWR write DISPCTL: SETBRT its low three bits, SETPWR its bit 3 (10_state.md section 4,
45_command_classes.md). -/
def Obligations.WritersOfDispctl : Prop :=
  ∀ (i : Instr) (s t : State), exec i s = .next t →
    ((∀ l, i ≠ .setbrt l) → (∀ o, i ≠ .setpwr o) → t.dispctl = s.dispctl) ∧
    ((∀ l, i ≠ .setbrt l) → ∀ b < 3, t.dispctl.getLsbD b = s.dispctl.getLsbD b) ∧
    ((∀ o, i ≠ .setpwr o) → t.dispctl.getLsbD 3 = s.dispctl.getLsbD 3)

/-- Only SETDIG, PUTC and CLR write a row (10_state.md section 2). -/
def Obligations.WritersOfTheDigitBuffer : Prop :=
  ∀ (i : Instr) (s t : State), exec i s = .next t →
    (∀ p m, i ≠ .setdig p m) → (∀ p c, i ≠ .putc p c) → i ≠ .clr → t.buf = s.buf

/-- A command changes neither the parameters, nor what the host presents next, nor the peripheral, and the two logs
only grow (10_state.md sections 3, 5, 7 and 8, 45_command_classes.md). -/
def Obligations.CommandsKeepProgramAndParameters : Prop :=
  ∀ (i : Instr) (s t : State), exec i s = .next t →
    t.cfg = s.cfg ∧ t.pending = s.pending ∧ t.periphBusy = s.periphBusy ∧ s.txlog <+: t.txlog ∧ s.linelog <+: t.linelog

/-- A step appends at most one frame, of one byte or of `R + 1` bytes that begin with `0xC0`; LOOKUP, SETDIG, GETROW, PUTC
and CLR append none; a frame of `R + 1` bytes sent by a command is sent by FLUSH (42_frame_encoder.md section 5). -/
def Obligations.FrameLogGrowsByAtMostOneFrame : Prop :=
  (∀ s t : State, s.Inv → step s = .next t →
    t.txlog = s.txlog ∨ ∃ f, t.txlog = s.txlog ++ [f] ∧
      (f.length = 1 ∨ f.length = s.cfg.rowCount + 1 ∧ f.head? = some 0xC0#8)) ∧
  (∀ (i : Instr) (s t : State), exec i s = .next t →
    ((∃ c, i = .lookup c) ∨ (∃ p m, i = .setdig p m) ∨ (∃ r, i = .getrow r) ∨ (∃ p c, i = .putc p c) ∨ i = .clr →
      t.txlog = s.txlog ∧ t.linelog = s.linelog ∧ t.emitting = s.emitting) ∧
    (∀ f, i ≠ .flush → t.txlog = s.txlog ++ [f] → f.length = 1))

/-- The response word: byte 3 is 0, byte 2 is STATUS with bits 7:2 read as 0, the low half is RESULT (10_state.md
section 4). -/
def Obligations.ResponseWordLayout : Prop :=
  ∀ s : State, s.rsp.extractLsb' 24 8 = 0#8 ∧ s.rsp.extractLsb' 16 8 = s.status &&& 0b11#8 ∧
    s.rsp.extractLsb' 0 16 = s.result

/-- Over the serializer with the peripheral idle, every list of items the host presents is worked off, one step each, and
the machine ends at rest with the command port free: no command can hang (43_link_serializer.md section 2,
70_reset_and_hazards.md section 4). -/
def Obligations.EveryProgramEndsOverTheSerializer : Prop :=
  ∀ s : State, s.Inv → s.cfg.link = .serializer → s.periphBusy = false →
    ∃ t : State, Sys2Proof.core.run s.pending.length s = .next t ∧ t.finished ∧ t.Inv

/-! ## Host macros -/

/-- R173. `display_string "HELLO"` from position 0: on 6 positions five PUTCs, and the machine that runs them leaves
position 5 as it was; on 3 positions the first three PUTCs only. -/
def Obligations.DisplayStringHello : Prop :=
  (∀ c : Config, c.posCount = 6 →
    displayString c 0 [0x48#8, 0x45#8, 0x4C#8, 0x4C#8, 0x4F#8] =
      [.putc 0#8 0x48#8, .putc 1#8 0x45#8, .putc 2#8 0x4C#8, .putc 3#8 0x4C#8, .putc 4#8 0x4F#8]) ∧
  (∀ s : State, s.Inv → s.cfg.posCount = 6 → s.emitting = none →
    s.pending = (displayString s.cfg 0 [0x48#8, 0x45#8, 0x4C#8, 0x4C#8, 0x4F#8]).map encode →
      ∃ t : State, Sys2Proof.core.run 5 s = .next t ∧ t.pending = [] ∧ t.digitMask 5 = s.digitMask 5) ∧
  (∀ c : Config, c.posCount = 3 →
    displayString c 0 [0x48#8, 0x45#8, 0x4C#8, 0x4C#8, 0x4F#8] =
      [.putc 0#8 0x48#8, .putc 1#8 0x45#8, .putc 2#8 0x4C#8])

/-- `display_string start, text` issues, in order, one PUTC for each character whose position is below `P`, so exactly
the positions `start .. min (start + L) P - 1` (44_host_macros.md). -/
def Obligations.DisplayStringIssuesWhatFits : Prop :=
  ∀ (c : Config) (start : Nat) (text : List Byte),
    displayString c start text =
      (text.take (c.posCount - start)).zipIdx.map (fun p => .putc (BitVec.ofNat 8 (start + p.2)) p.1)

/-- R176. The source's properties of `display_number`: 0 in one column; -5 in any field of two columns or more, the sign
immediately left of the digits rendered, which are `5` after blanks without leading zeros and `0...05` from the second
column on with them; 42 with leading zeros. -/
def Obligations.DisplayNumberProperties : Prop :=
  ∀ (c : Config) (start : Nat),
    (start ≤ 255 → displayNumber c start 0 false 1 = some [.putc (BitVec.ofNat 8 start) 0x30#8]) ∧
    (start + 1 ≤ 255 → displayNumber c start (-5) false 2 =
      some [.setdig (BitVec.ofNat 8 start) c.minusMask, .putc (BitVec.ofNat 8 (start + 1)) 0x35#8]) ∧
    (start + 3 ≤ 255 → displayNumber c start (-5) false 4 =
      some [.setdig (BitVec.ofNat 8 start) 0#16, .setdig (BitVec.ofNat 8 (start + 1)) 0#16,
        .setdig (BitVec.ofNat 8 (start + 2)) c.minusMask, .putc (BitVec.ofNat 8 (start + 3)) 0x35#8]) ∧
    (start + 3 ≤ 255 → displayNumber c start (-5) true 4 =
      some [.setdig (BitVec.ofNat 8 start) c.minusMask, .putc (BitVec.ofNat 8 (start + 1)) 0x30#8,
        .putc (BitVec.ofNat 8 (start + 2)) 0x30#8, .putc (BitVec.ofNat 8 (start + 3)) 0x35#8]) ∧
    (∀ width, 2 ≤ width → start + width - 1 ≤ 255 →
      displayNumber c start (-5) false width =
        some ((List.range (width - 2)).map (fun col => .setdig (BitVec.ofNat 8 (start + col)) 0#16) ++
          [.setdig (BitVec.ofNat 8 (start + (width - 2))) c.minusMask,
            .putc (BitVec.ofNat 8 (start + (width - 1))) 0x35#8]) ∧
      displayNumber c start (-5) true width =
        some (.setdig (BitVec.ofNat 8 start) c.minusMask ::
          (List.range (width - 2)).map (fun col => .putc (BitVec.ofNat 8 (start + (col + 1))) 0x30#8) ++
          [.putc (BitVec.ofNat 8 (start + (width - 1))) 0x35#8])) ∧
    displayNumber c 0 42 true 4 =
      some [.putc 0#8 0x30#8, .putc 1#8 0x30#8, .putc 2#8 0x34#8, .putc 3#8 0x32#8]

/-- With leading zeros, the columns of a non-negative value, and those of a negative one after the minus sign in the
leftmost column, are `'0'` plus the decimal digits of its magnitude, most significant first: read back in base 10 they
give the magnitude, high digits dropped where it does not fit (44_host_macros.md; the spec's own choice D22). -/
def Obligations.DisplayNumberSpellsTheValue : Prop :=
  ∀ (c : Config) (start width : Nat) (mag : Nat), 1 ≤ width → start + width - 1 ≤ 255 →
    (mag ≤ 32767 → ∃ digits : List Nat, digits.length = width ∧ (∀ d ∈ digits, d < 10) ∧
      digits.foldl (fun acc d => 10 * acc + d) 0 = mag % 10 ^ width ∧
      displayNumber c start (mag : Int) true width =
        some (digits.zipIdx.map (fun p => .putc (BitVec.ofNat 8 (start + p.2)) (BitVec.ofNat 8 (0x30 + p.1))))) ∧
    (1 ≤ mag → mag ≤ 32768 → ∃ digits : List Nat, digits.length = width - 1 ∧ (∀ d ∈ digits, d < 10) ∧
      digits.foldl (fun acc d => 10 * acc + d) 0 = mag % 10 ^ (width - 1) ∧
      displayNumber c start (-(mag : Int)) true width =
        some (.setdig (BitVec.ofNat 8 start) c.minusMask ::
          digits.zipIdx.map (fun p => .putc (BitVec.ofNat 8 (start + (p.2 + 1))) (BitVec.ofNat 8 (0x30 + p.1)))))

/-- The remaining macros: `display_char` is one PUTC, refused above position 255; `clear` is CLR; `set_brightness` is
SETBRT, refused above 7; `set_power` is SETPWR; `set_mode_autoinc` is CMD 0x40; and the recommended start-up is CMD 0x40,
CLR, FLUSH, SETBRT, SETPWR 1 (44_host_macros.md, 70_reset_and_hazards.md section 2). -/
def Obligations.SmallMacroExpansions : Prop :=
  (∀ p chr, p ≤ 255 → displayChar p chr = some [.putc (BitVec.ofNat 8 p) chr]) ∧
  (∀ p chr, 255 < p → displayChar p chr = none) ∧
  clearMacro.map encode = [.word 0x05000000#32] ∧
  (∀ l, l ≤ 7 → setBrightness l = some [.setbrt (BitVec.ofNat 3 l)]) ∧
  (∀ l, 7 < l → setBrightness l = none) ∧
  (setPower true).map encode = [.word 0x09010000#32] ∧
  (setPower false).map encode = [.word 0x09000000#32] ∧
  setModeAutoinc.map encode = [.word 0x07400000#32] ∧
  (∀ l, l ≤ 7 → (bootSequence l).map (List.map encode) =
    some [.word 0x07400000#32, .word 0x05000000#32, .word 0x06000000#32, .word (BitVec.ofNat 32 (0x08000000 + l * 2 ^ 16)),
      .word 0x09010000#32]) ∧
  (∀ l, 7 < l → bootSequence l = none)
end

