-- ==== Sys2Proof/Laws/Memory.lean ====
section
/-! SUPPORT. The laws of the Digit Buffer: a read after a write, the canonical form, equal reads give equal buffers, and
what a sweep over the rows leaves in each row. -/

namespace Sys2Proof.Machine

theorem Memory.wf_nil : Memory.wf [] := by simp [Memory.wf]

/-- The tail of a canonical buffer is canonical, its indices are above the head's, and the head's byte is not 0. -/
theorem Memory.wf_cons_iff {k : Nat} {v : Byte} {m : Memory} :
    Memory.wf ((k, v) :: m) ↔ Memory.wf m ∧ (∀ c ∈ m, k < c.1) ∧ v ≠ 0x00#8 := by
  simp only [Memory.wf, List.pairwise_cons, List.forall_mem_cons]
  tauto

/-- A row below every listed row reads 0. -/
theorem Memory.read_below {m : Memory} {a : Nat} (h : ∀ c ∈ m, a < c.1) : Memory.read m a = 0x00#8 := by
  induction m with
  | nil => rfl
  | cons c m ih =>
    obtain ⟨k, v⟩ := c
    have hk : a < k := h (k, v) (by simp)
    simp only [Memory.read, if_neg (show ¬ a = k by omega)]
    exact ih (fun c hc => h c (by simp [hc]))

theorem Memory.read_cons_put {m : Memory} {a : Nat} (v : Byte) (h : ∀ c ∈ m, a < c.1) (b : Nat) :
    Memory.read (Memory.cons a v m) b = if b = a then v else Memory.read m b := by
  unfold Memory.cons
  split
  · rename_i hv
    split
    · rename_i hb; rw [hb, hv, Memory.read_below h]
    · rfl
  · rfl

/-- A read after a write: the row written gives the byte, every other row is as it was. -/
theorem Memory.read_write {m : Memory} (hm : Memory.wf m) (a : Nat) (v : Byte) (b : Nat) :
    Memory.read (Memory.write m a v) b = if b = a then v else Memory.read m b := by
  induction m with
  | nil => exact Memory.read_cons_put v (by simp) b
  | cons c m ih =>
    obtain ⟨k, w⟩ := c
    obtain ⟨hm', hk, -⟩ := Memory.wf_cons_iff.1 hm
    simp only [Memory.write]
    split
    · rename_i hlt
      refine Memory.read_cons_put v (fun c hc => ?_) b
      rcases List.mem_cons.1 hc with rfl | hc
      · exact hlt
      · exact Nat.lt_trans hlt (hk c hc)
    · split
      · rename_i heq
        subst heq
        rw [Memory.read_cons_put v hk b]
        by_cases hb : b = a <;> simp [Memory.read, hb]
      · rename_i hne
        simp only [Memory.read, ih hm']
        by_cases hb : b = k
        · subst hb; simp [show ¬ b = a from fun h => hne h.symm]
        · simp [hb]

/-- Every row listed after a write was listed before or is the row written. -/
theorem Memory.mem_write {m : Memory} {a : Nat} {v : Byte} {c : Host.Cell} (h : c ∈ Memory.write m a v) :
    c ∈ m ∨ c.1 = a := by
  induction m with
  | nil =>
    simp only [Memory.write, Memory.cons] at h
    split at h
    · simp at h
    · simp only [List.mem_singleton] at h; exact .inr (by rw [h])
  | cons d m ih =>
    obtain ⟨k, w⟩ := d
    simp only [Memory.write, Memory.cons] at h
    split at h
    · split at h
      · exact .inl h
      · rcases List.mem_cons.1 h with rfl | h
        · exact .inr rfl
        · exact .inl h
    · split at h
      · split at h
        · exact .inl (List.mem_cons_of_mem _ h)
        · rcases List.mem_cons.1 h with rfl | h
          · exact .inr rfl
          · exact .inl (List.mem_cons_of_mem _ h)
      · rcases List.mem_cons.1 h with rfl | h
        · exact .inl (by simp)
        · rcases ih h with h | h
          · exact .inl (List.mem_cons_of_mem _ h)
          · exact .inr h

theorem Memory.wf_cons_put {m : Memory} (hm : Memory.wf m) {a : Nat} (v : Byte) (h : ∀ c ∈ m, a < c.1) :
    Memory.wf (Memory.cons a v m) := by
  unfold Memory.cons
  split
  · exact hm
  · rename_i hv; exact Memory.wf_cons_iff.2 ⟨hm, h, hv⟩

/-- A write keeps the canonical form. -/
theorem Memory.write_wf {m : Memory} (hm : Memory.wf m) (a : Nat) (v : Byte) : Memory.wf (Memory.write m a v) := by
  induction m with
  | nil => exact Memory.wf_cons_put hm v (by simp)
  | cons c m ih =>
    obtain ⟨k, w⟩ := c
    obtain ⟨hm', hk, hw⟩ := Memory.wf_cons_iff.1 hm
    simp only [Memory.write]
    split
    · rename_i hlt
      refine Memory.wf_cons_put hm v (fun c hc => ?_)
      rcases List.mem_cons.1 hc with rfl | hc
      · exact hlt
      · exact Nat.lt_trans hlt (hk c hc)
    · split
      · rename_i heq
        subst heq
        exact Memory.wf_cons_put hm' v hk
      · refine Memory.wf_cons_iff.2 ⟨ih hm', fun c hc => ?_, hw⟩
        rcases Memory.mem_write hc with hc | hc
        · exact hk c hc
        · omega

/-- Two canonical buffers that read alike are equal. -/
theorem Memory.ext_of_wf {m n : Memory} (hm : Memory.wf m) (hn : Memory.wf n)
    (h : ∀ a, Memory.read m a = Memory.read n a) : m = n := by
  induction m generalizing n with
  | nil =>
    cases n with
    | nil => rfl
    | cons d n =>
      obtain ⟨k, w⟩ := d
      have := h k
      simp only [Memory.read, if_true] at this
      exact absurd this.symm (Memory.wf_cons_iff.1 hn).2.2
  | cons c m ih =>
    obtain ⟨k, v⟩ := c
    obtain ⟨hm', hk, hv⟩ := Memory.wf_cons_iff.1 hm
    cases n with
    | nil =>
      have := h k
      simp only [Memory.read, if_true] at this
      exact absurd this hv
    | cons d n =>
      obtain ⟨j, w⟩ := d
      obtain ⟨hn', hj, hw⟩ := Memory.wf_cons_iff.1 hn
      have hkj : k = j := by
        rcases Nat.lt_trichotomy k j with hlt | heq | hlt
        · have := h k
          rw [Memory.read_below (m := (j, w) :: n) (fun c hc => ?_)] at this
          · simp only [Memory.read, if_true] at this; exact absurd this hv
          · rcases List.mem_cons.1 hc with rfl | hc
            · exact hlt
            · exact Nat.lt_trans hlt (hj c hc)
        · exact heq
        · have := h j
          rw [Memory.read_below (m := (k, v) :: m) (fun c hc => ?_)] at this
          · simp only [Memory.read, if_true] at this; exact absurd this.symm hw
          · rcases List.mem_cons.1 hc with rfl | hc
            · exact hlt
            · exact Nat.lt_trans hlt (hk c hc)
      subst hkj
      have hvw : v = w := by have := h k; simpa only [Memory.read, if_true] using this
      subst hvw
      congr 1
      refine ih hm' hn' (fun a => ?_)
      by_cases ha : a = k
      · subst ha; rw [Memory.read_below hk, Memory.read_below hj]
      · have := h a; simpa only [Memory.read, if_neg ha] using this

/-- A sweep keeps the canonical form. -/
theorem Memory.sweep_wf {m : Memory} (hm : Memory.wf m) (f : Nat → Byte → Byte) (n : Nat) :
    Memory.wf (Memory.sweep f n m) := by
  induction n with
  | zero => exact hm
  | succ n ih => exact Memory.write_wf ih _ _

/-- What a sweep over the rows `0..n-1` leaves: `f` of each of them, every other row as it was. -/
theorem Memory.read_sweep {m : Memory} (hm : Memory.wf m) (f : Nat → Byte → Byte) (n a : Nat) :
    Memory.read (Memory.sweep f n m) a = if a < n then f a (Memory.read m a) else Memory.read m a := by
  induction n generalizing a with
  | zero => simp [Memory.sweep]
  | succ n ih =>
    simp only [Memory.sweep, Memory.read_write (Memory.sweep_wf hm f n), ih]
    by_cases ha : a = n
    · subst ha; simp
    · simp only [if_neg ha]
      by_cases hlt : a < n
      · simp [hlt, Nat.lt_succ_of_lt hlt]
      · simp [hlt, show ¬ a < n + 1 by omega]

/-- Every row listed after a sweep was listed before or is one of the rows swept. -/
theorem Memory.mem_sweep {m : Memory} {f : Nat → Byte → Byte} {n : Nat} {c : Host.Cell}
    (h : c ∈ Memory.sweep f n m) : c ∈ m ∨ c.1 < n := by
  induction n with
  | zero => exact .inl h
  | succ n ih =>
    rcases Memory.mem_write h with h | h
    · exact (ih h).imp id (fun h => by omega)
    · exact .inr (by omega)

end Sys2Proof.Machine
end

