-- ==== Sys2Proof/Laws/State.lean ====
section
/-! SUPPORT. One lemma per field per named update of the state, so that no later proof unfolds a record update. -/

namespace Sys2Proof.Machine

@[simp] theorem setLookup_cfg (s : State) (r : Option Mask) : (s.setLookup r).cfg = s.cfg := rfl
@[simp] theorem setLookup_buf (s : State) (r : Option Mask) : (s.setLookup r).buf = s.buf := rfl
@[simp] theorem setLookup_dispctl (s : State) (r : Option Mask) : (s.setLookup r).dispctl = s.dispctl := rfl
@[simp] theorem setLookup_status (s : State) (r : Option Mask) : (s.setLookup r).status = statusWithFound s.status r.isSome := rfl
@[simp] theorem setLookup_result (s : State) (r : Option Mask) : (s.setLookup r).result = r.getD 0x0000#16 := rfl
@[simp] theorem setLookup_txlog (s : State) (r : Option Mask) : (s.setLookup r).txlog = s.txlog := rfl
@[simp] theorem setLookup_lstate (s : State) (r : Option Mask) : (s.setLookup r).lstate = s.lstate := rfl
@[simp] theorem setLookup_linemode (s : State) (r : Option Mask) : (s.setLookup r).linemode = s.linemode := rfl
@[simp] theorem setLookup_clk (s : State) (r : Option Mask) : (s.setLookup r).clk = s.clk := rfl
@[simp] theorem setLookup_dio (s : State) (r : Option Mask) : (s.setLookup r).dio = s.dio := rfl
@[simp] theorem setLookup_linelog (s : State) (r : Option Mask) : (s.setLookup r).linelog = s.linelog := rfl
@[simp] theorem setLookup_pending (s : State) (r : Option Mask) : (s.setLookup r).pending = s.pending := rfl
@[simp] theorem setLookup_emitting (s : State) (r : Option Mask) : (s.setLookup r).emitting = s.emitting := rfl
@[simp] theorem setLookup_linkTakes (s : State) (r : Option Mask) : (s.setLookup r).linkTakes = s.linkTakes := rfl
@[simp] theorem setLookup_periphBusy (s : State) (r : Option Mask) : (s.setLookup r).periphBusy = s.periphBusy := rfl

@[simp] theorem lookupChar_cfg (s : State) (c : Byte) : (s.lookupChar c).cfg = s.cfg := rfl
@[simp] theorem lookupChar_buf (s : State) (c : Byte) : (s.lookupChar c).buf = s.buf := rfl
@[simp] theorem lookupChar_dispctl (s : State) (c : Byte) : (s.lookupChar c).dispctl = s.dispctl := rfl
@[simp] theorem lookupChar_status (s : State) (c : Byte) : (s.lookupChar c).status = statusWithFound s.status (s.cfg.lookup c).isSome := rfl
@[simp] theorem lookupChar_result (s : State) (c : Byte) : (s.lookupChar c).result = (s.cfg.lookup c).getD 0x0000#16 := rfl
@[simp] theorem lookupChar_txlog (s : State) (c : Byte) : (s.lookupChar c).txlog = s.txlog := rfl
@[simp] theorem lookupChar_lstate (s : State) (c : Byte) : (s.lookupChar c).lstate = s.lstate := rfl
@[simp] theorem lookupChar_linemode (s : State) (c : Byte) : (s.lookupChar c).linemode = s.linemode := rfl
@[simp] theorem lookupChar_clk (s : State) (c : Byte) : (s.lookupChar c).clk = s.clk := rfl
@[simp] theorem lookupChar_dio (s : State) (c : Byte) : (s.lookupChar c).dio = s.dio := rfl
@[simp] theorem lookupChar_linelog (s : State) (c : Byte) : (s.lookupChar c).linelog = s.linelog := rfl
@[simp] theorem lookupChar_pending (s : State) (c : Byte) : (s.lookupChar c).pending = s.pending := rfl
@[simp] theorem lookupChar_emitting (s : State) (c : Byte) : (s.lookupChar c).emitting = s.emitting := rfl
@[simp] theorem lookupChar_linkTakes (s : State) (c : Byte) : (s.lookupChar c).linkTakes = s.linkTakes := rfl
@[simp] theorem lookupChar_periphBusy (s : State) (c : Byte) : (s.lookupChar c).periphBusy = s.periphBusy := rfl

@[simp] theorem clearRows_cfg (s : State) : (s.clearRows).cfg = s.cfg := rfl
@[simp] theorem clearRows_buf (s : State) : (s.clearRows).buf = Memory.sweep (fun _ _ => 0x00#8) s.cfg.rowCount s.buf := rfl
@[simp] theorem clearRows_dispctl (s : State) : (s.clearRows).dispctl = s.dispctl := rfl
@[simp] theorem clearRows_status (s : State) : (s.clearRows).status = s.status := rfl
@[simp] theorem clearRows_result (s : State) : (s.clearRows).result = s.result := rfl
@[simp] theorem clearRows_txlog (s : State) : (s.clearRows).txlog = s.txlog := rfl
@[simp] theorem clearRows_lstate (s : State) : (s.clearRows).lstate = s.lstate := rfl
@[simp] theorem clearRows_linemode (s : State) : (s.clearRows).linemode = s.linemode := rfl
@[simp] theorem clearRows_clk (s : State) : (s.clearRows).clk = s.clk := rfl
@[simp] theorem clearRows_dio (s : State) : (s.clearRows).dio = s.dio := rfl
@[simp] theorem clearRows_linelog (s : State) : (s.clearRows).linelog = s.linelog := rfl
@[simp] theorem clearRows_pending (s : State) : (s.clearRows).pending = s.pending := rfl
@[simp] theorem clearRows_emitting (s : State) : (s.clearRows).emitting = s.emitting := rfl
@[simp] theorem clearRows_linkTakes (s : State) : (s.clearRows).linkTakes = s.linkTakes := rfl
@[simp] theorem clearRows_periphBusy (s : State) : (s.clearRows).periphBusy = s.periphBusy := rfl

@[simp] theorem undefinedCommand_cfg (s : State) : (undefinedCommand s).cfg = s.cfg := rfl
@[simp] theorem undefinedCommand_buf (s : State) : (undefinedCommand s).buf = s.buf := rfl
@[simp] theorem undefinedCommand_dispctl (s : State) : (undefinedCommand s).dispctl = s.dispctl := rfl
@[simp] theorem undefinedCommand_status (s : State) : (undefinedCommand s).status = statusWithIll s.status := rfl
@[simp] theorem undefinedCommand_result (s : State) : (undefinedCommand s).result = s.result := rfl
@[simp] theorem undefinedCommand_txlog (s : State) : (undefinedCommand s).txlog = s.txlog := rfl
@[simp] theorem undefinedCommand_lstate (s : State) : (undefinedCommand s).lstate = s.lstate := rfl
@[simp] theorem undefinedCommand_linemode (s : State) : (undefinedCommand s).linemode = s.linemode := rfl
@[simp] theorem undefinedCommand_clk (s : State) : (undefinedCommand s).clk = s.clk := rfl
@[simp] theorem undefinedCommand_dio (s : State) : (undefinedCommand s).dio = s.dio := rfl
@[simp] theorem undefinedCommand_linelog (s : State) : (undefinedCommand s).linelog = s.linelog := rfl
@[simp] theorem undefinedCommand_pending (s : State) : (undefinedCommand s).pending = s.pending := rfl
@[simp] theorem undefinedCommand_emitting (s : State) : (undefinedCommand s).emitting = s.emitting := rfl
@[simp] theorem undefinedCommand_linkTakes (s : State) : (undefinedCommand s).linkTakes = s.linkTakes := rfl
@[simp] theorem undefinedCommand_periphBusy (s : State) : (undefinedCommand s).periphBusy = s.periphBusy := rfl

@[simp] theorem drive_cfg (s : State) (es : List LineEvent) : (s.drive es).cfg = s.cfg := rfl
@[simp] theorem drive_buf (s : State) (es : List LineEvent) : (s.drive es).buf = s.buf := rfl
@[simp] theorem drive_dispctl (s : State) (es : List LineEvent) : (s.drive es).dispctl = s.dispctl := rfl
@[simp] theorem drive_status (s : State) (es : List LineEvent) : (s.drive es).status = s.status := rfl
@[simp] theorem drive_result (s : State) (es : List LineEvent) : (s.drive es).result = s.result := rfl
@[simp] theorem drive_txlog (s : State) (es : List LineEvent) : (s.drive es).txlog = s.txlog := rfl
@[simp] theorem drive_lstate (s : State) (es : List LineEvent) : (s.drive es).lstate = s.lstate := rfl
@[simp] theorem drive_linemode (s : State) (es : List LineEvent) : (s.drive es).linemode = modeAfter es s.linemode := rfl
@[simp] theorem drive_clk (s : State) (es : List LineEvent) : (s.drive es).clk = clkAfter es s.clk := rfl
@[simp] theorem drive_dio (s : State) (es : List LineEvent) : (s.drive es).dio = dioAfter es s.dio := rfl
@[simp] theorem drive_linelog (s : State) (es : List LineEvent) : (s.drive es).linelog = s.linelog ++ es := rfl
@[simp] theorem drive_pending (s : State) (es : List LineEvent) : (s.drive es).pending = s.pending := rfl
@[simp] theorem drive_emitting (s : State) (es : List LineEvent) : (s.drive es).emitting = s.emitting := rfl
@[simp] theorem drive_linkTakes (s : State) (es : List LineEvent) : (s.drive es).linkTakes = s.linkTakes := rfl
@[simp] theorem drive_periphBusy (s : State) (es : List LineEvent) : (s.drive es).periphBusy = s.periphBusy := rfl

@[simp] theorem phase_cfg (s : State) (l : LState) (es : List LineEvent) : (s.phase l es).cfg = s.cfg := rfl
@[simp] theorem phase_buf (s : State) (l : LState) (es : List LineEvent) : (s.phase l es).buf = s.buf := rfl
@[simp] theorem phase_dispctl (s : State) (l : LState) (es : List LineEvent) : (s.phase l es).dispctl = s.dispctl := rfl
@[simp] theorem phase_status (s : State) (l : LState) (es : List LineEvent) : (s.phase l es).status = s.status := rfl
@[simp] theorem phase_result (s : State) (l : LState) (es : List LineEvent) : (s.phase l es).result = s.result := rfl
@[simp] theorem phase_txlog (s : State) (l : LState) (es : List LineEvent) : (s.phase l es).txlog = s.txlog := rfl
@[simp] theorem phase_lstate (s : State) (l : LState) (es : List LineEvent) : (s.phase l es).lstate = l := rfl
@[simp] theorem phase_linemode (s : State) (l : LState) (es : List LineEvent) : (s.phase l es).linemode = modeAfter es s.linemode := rfl
@[simp] theorem phase_clk (s : State) (l : LState) (es : List LineEvent) : (s.phase l es).clk = clkAfter es s.clk := rfl
@[simp] theorem phase_dio (s : State) (l : LState) (es : List LineEvent) : (s.phase l es).dio = dioAfter es s.dio := rfl
@[simp] theorem phase_linelog (s : State) (l : LState) (es : List LineEvent) : (s.phase l es).linelog = s.linelog ++ es := rfl
@[simp] theorem phase_pending (s : State) (l : LState) (es : List LineEvent) : (s.phase l es).pending = s.pending := rfl
@[simp] theorem phase_emitting (s : State) (l : LState) (es : List LineEvent) : (s.phase l es).emitting = s.emitting := rfl
@[simp] theorem phase_linkTakes (s : State) (l : LState) (es : List LineEvent) : (s.phase l es).linkTakes = s.linkTakes := rfl
@[simp] theorem phase_periphBusy (s : State) (l : LState) (es : List LineEvent) : (s.phase l es).periphBusy = s.periphBusy := rfl

@[simp] theorem logFrame_cfg (s : State) (f : Frame) : (s.logFrame f).cfg = s.cfg := rfl
@[simp] theorem logFrame_buf (s : State) (f : Frame) : (s.logFrame f).buf = s.buf := rfl
@[simp] theorem logFrame_dispctl (s : State) (f : Frame) : (s.logFrame f).dispctl = s.dispctl := rfl
@[simp] theorem logFrame_status (s : State) (f : Frame) : (s.logFrame f).status = s.status := rfl
@[simp] theorem logFrame_result (s : State) (f : Frame) : (s.logFrame f).result = s.result := rfl
@[simp] theorem logFrame_txlog (s : State) (f : Frame) : (s.logFrame f).txlog = s.txlog ++ [f] := rfl
@[simp] theorem logFrame_lstate (s : State) (f : Frame) : (s.logFrame f).lstate = s.lstate := rfl
@[simp] theorem logFrame_linemode (s : State) (f : Frame) : (s.logFrame f).linemode = s.linemode := rfl
@[simp] theorem logFrame_clk (s : State) (f : Frame) : (s.logFrame f).clk = s.clk := rfl
@[simp] theorem logFrame_dio (s : State) (f : Frame) : (s.logFrame f).dio = s.dio := rfl
@[simp] theorem logFrame_linelog (s : State) (f : Frame) : (s.logFrame f).linelog = s.linelog := rfl
@[simp] theorem logFrame_pending (s : State) (f : Frame) : (s.logFrame f).pending = s.pending := rfl
@[simp] theorem logFrame_emitting (s : State) (f : Frame) : (s.logFrame f).emitting = s.emitting := rfl
@[simp] theorem logFrame_linkTakes (s : State) (f : Frame) : (s.logFrame f).linkTakes = s.linkTakes := rfl
@[simp] theorem logFrame_periphBusy (s : State) (f : Frame) : (s.logFrame f).periphBusy = s.periphBusy := rfl

@[simp] theorem sent_cfg (s : State) (f : Frame) : (s.sent f).cfg = s.cfg := rfl
@[simp] theorem sent_buf (s : State) (f : Frame) : (s.sent f).buf = s.buf := rfl
@[simp] theorem sent_dispctl (s : State) (f : Frame) : (s.sent f).dispctl = s.dispctl := rfl
@[simp] theorem sent_status (s : State) (f : Frame) : (s.sent f).status = s.status := rfl
@[simp] theorem sent_result (s : State) (f : Frame) : (s.sent f).result = s.result := rfl
@[simp] theorem sent_txlog (s : State) (f : Frame) : (s.sent f).txlog = s.txlog ++ [f] := rfl
@[simp] theorem sent_lstate (s : State) (f : Frame) : (s.sent f).lstate = .idle := rfl
@[simp] theorem sent_linemode (s : State) (f : Frame) : (s.sent f).linemode = .periph := rfl
@[simp] theorem sent_clk (s : State) (f : Frame) : (s.sent f).clk = true := rfl
@[simp] theorem sent_dio (s : State) (f : Frame) : (s.sent f).dio = true := rfl
@[simp] theorem sent_linelog (s : State) (f : Frame) : (s.sent f).linelog = s.linelog ++ frameEvents f := rfl
@[simp] theorem sent_pending (s : State) (f : Frame) : (s.sent f).pending = s.pending := rfl
@[simp] theorem sent_emitting (s : State) (f : Frame) : (s.sent f).emitting = s.emitting := rfl
@[simp] theorem sent_linkTakes (s : State) (f : Frame) : (s.sent f).linkTakes = s.linkTakes := rfl
@[simp] theorem sent_periphBusy (s : State) (f : Frame) : (s.sent f).periphBusy = s.periphBusy := rfl

@[simp] theorem setDigit_cfg (s : State) (p : Byte) (m : Mask) : (s.setDigit p m).cfg = s.cfg := by
  unfold State.setDigit; split <;> split <;> rfl
@[simp] theorem setDigit_dispctl (s : State) (p : Byte) (m : Mask) : (s.setDigit p m).dispctl = s.dispctl := by
  unfold State.setDigit; split <;> split <;> rfl
@[simp] theorem setDigit_status (s : State) (p : Byte) (m : Mask) : (s.setDigit p m).status = s.status := by
  unfold State.setDigit; split <;> split <;> rfl
@[simp] theorem setDigit_result (s : State) (p : Byte) (m : Mask) : (s.setDigit p m).result = s.result := by
  unfold State.setDigit; split <;> split <;> rfl
@[simp] theorem setDigit_txlog (s : State) (p : Byte) (m : Mask) : (s.setDigit p m).txlog = s.txlog := by
  unfold State.setDigit; split <;> split <;> rfl
@[simp] theorem setDigit_lstate (s : State) (p : Byte) (m : Mask) : (s.setDigit p m).lstate = s.lstate := by
  unfold State.setDigit; split <;> split <;> rfl
@[simp] theorem setDigit_linemode (s : State) (p : Byte) (m : Mask) : (s.setDigit p m).linemode = s.linemode := by
  unfold State.setDigit; split <;> split <;> rfl
@[simp] theorem setDigit_clk (s : State) (p : Byte) (m : Mask) : (s.setDigit p m).clk = s.clk := by
  unfold State.setDigit; split <;> split <;> rfl
@[simp] theorem setDigit_dio (s : State) (p : Byte) (m : Mask) : (s.setDigit p m).dio = s.dio := by
  unfold State.setDigit; split <;> split <;> rfl
@[simp] theorem setDigit_linelog (s : State) (p : Byte) (m : Mask) : (s.setDigit p m).linelog = s.linelog := by
  unfold State.setDigit; split <;> split <;> rfl
@[simp] theorem setDigit_pending (s : State) (p : Byte) (m : Mask) : (s.setDigit p m).pending = s.pending := by
  unfold State.setDigit; split <;> split <;> rfl
@[simp] theorem setDigit_emitting (s : State) (p : Byte) (m : Mask) : (s.setDigit p m).emitting = s.emitting := by
  unfold State.setDigit; split <;> split <;> rfl
@[simp] theorem setDigit_linkTakes (s : State) (p : Byte) (m : Mask) : (s.setDigit p m).linkTakes = s.linkTakes := by
  unfold State.setDigit; split <;> split <;> rfl
@[simp] theorem setDigit_periphBusy (s : State) (p : Byte) (m : Mask) : (s.setDigit p m).periphBusy = s.periphBusy := by
  unfold State.setDigit; split <;> split <;> rfl

end Sys2Proof.Machine
end

