-- ==== Sys2Proof/Laws/Serializer.lean ====
section
/-! SUPPORT. What the line serializer and the frame port can do, said once. -/

namespace Sys2Proof.Machine

/-- Phases one after another are one phase with their events joined, ending in the last phase's `LSTATE`. -/
theorem phase_phase (s : State) (l l' : LState) (es es' : List LineEvent) :
    (s.phase l es).phase l' es' = s.phase l' (es ++ es') := by
  simp [State.phase, State.drive, clkAfter, dioAfter, modeAfter, List.foldl_append]

/-- BYTE (R153): the byte's events, the serializer left at bit 7. -/
theorem sendByte_eq (s : State) (i : Nat) (b : Byte) : s.sendByte i b = s.phase (.byte i 7) (byteEvents b) := by
  simp only [State.sendByte, show List.range 8 = [0, 1, 2, 3, 4, 5, 6, 7] from rfl, List.foldl_cons, List.foldl_nil,
    phase_phase]
  rfl

/-- The bytes of a frame, after a phase: their events joined to the phase's. -/
theorem sendBytes_phase (f : Frame) (s : State) (l : LState) (es : List LineEvent) (i : Nat) :
    ∃ l', ((s.phase l es).sendBytes i f) = s.phase l' (es ++ f.flatMap byteEvents) := by
  induction f generalizing l es i with
  | nil => exact ⟨l, by simp [State.sendBytes]⟩
  | cons b f ih =>
    obtain ⟨l', h⟩ := ih (.byte i 7) (es ++ byteEvents b) (i + 1)
    exact ⟨l', by rw [State.sendBytes, sendByte_eq, phase_phase, h, List.flatMap_cons, List.append_assoc]⟩

/-- Serializing a frame and logging it: the events of R150, both lines high, the serializer at rest (R154, R155). -/
theorem serialize_logFrame (f : Frame) (s : State) : (s.serialize f).logFrame f = s.sent f := by
  obtain ⟨l', h⟩ := sendBytes_phase f s.acquire .start startEvents 0
  simp only [State.serialize, State.startCondition, h, State.stopCondition, phase_phase]
  simp [State.sent, State.release, State.acquire, State.logFrame, State.phase, State.drive, frameEvents, startEvents,
    stopEvents, clkAfter, dioAfter, modeAfter, List.foldl_append]

/-- `emit` over the serializer with the peripheral idle completes (R156). -/
theorem emit_serializer {s : State} (f : Frame) (hl : s.cfg.link = .serializer) (hp : s.periphBusy = false) :
    emit f s = .next (s.sent f) := by
  simp [emit, hl, hp, serialize_logFrame]

/-- `emit` over an external link that takes the frame at once. -/
theorem emit_taken {s : State} (f : Frame) (hl : s.cfg.link = .external) {rest : List Bool}
    (ht : s.linkTakes = true :: rest) :
    emit f s = .next { s.logFrame f with linkTakes := rest, emitting := none } := by
  simp [emit, hl, State.offer, ht]

/-- Everything an offer to an external link can do. -/
theorem offer_cases (f : Frame) (s : State) :
    (∃ rest, s.linkTakes = true :: rest ∧ s.offer f = { s.logFrame f with linkTakes := rest, emitting := none }) ∨
    (∃ rest, s.linkTakes = false :: rest ∧ s.offer f = { s with linkTakes := rest, emitting := some f }) ∨
    (s.linkTakes = [] ∧ s.offer f = { s with emitting := some f }) := by
  unfold State.offer
  split
  · exact .inl ⟨_, ‹_›, rfl⟩
  · exact .inr (.inl ⟨_, ‹_›, rfl⟩)
  · exact .inr (.inr ⟨‹_›, rfl⟩)

/-- Everything `emit` can do when it answers a next state. -/
theorem emit_cases {f : Frame} {s t : State} (h : emit f s = .next t) :
    (s.cfg.link = .serializer ∧ s.periphBusy = false ∧ t = s.sent f) ∨ (s.cfg.link = .external ∧ t = s.offer f) := by
  unfold emit at h
  split at h
  · split at h
    · cases h
    · rename_i hp
      rw [serialize_logFrame] at h
      cases h
      exact .inl ⟨‹_›, by simpa using hp, rfl⟩
  · cases h
    exact .inr ⟨‹_›, rfl⟩

/-- Everything a poll can do when it answers a next state: the waiting frame is taken, or it waits on. -/
theorem poll_cases {f : Frame} {s t : State} (h : poll f s = .next t) :
    (∃ rest, s.linkTakes = true :: rest ∧ t = { s.logFrame f with linkTakes := rest, emitting := none }) ∨
    (∃ rest, s.linkTakes = false :: rest ∧ t = { s with linkTakes := rest, emitting := some f }) := by
  unfold poll at h
  split at h
  · cases h
  · rename_i hne
    cases h
    rcases offer_cases f s with h | h | ⟨h, -⟩
    · exact .inl h
    · exact .inr h
    · simp [h] at hne

end Sys2Proof.Machine
end

