-- ==== Sys2Proof/Laws/Step.lean ====
section
/-! SUPPORT. What a command and what a step can do, said once: the inversion lemmas later proofs start from. -/

namespace Sys2Proof.Machine

/-- A command that only sends a frame: the frame and the display-control register it leaves. -/
def sends (s : State) : Instr → Option (Frame × BitVec 4)
  | .lookup _ => none
  | .setdig _ _ => none
  | .getrow _ => none
  | .putc _ _ => none
  | .clr => none
  | .flush => some (s.flushFrame, s.dispctl)
  | .cmd byte => some ([byte], s.dispctl)
  | .setbrt level =>
    some ([controlByte (dispctlWithBrt s.dispctl level)], dispctlWithBrt s.dispctl level)
  | .setpwr on => some ([controlByte (dispctlWithPwr s.dispctl on)], dispctlWithPwr s.dispctl on)
  | .kMode u => some ([modeByte u], s.dispctl)
  | .kDispctl u pwr brt => some ([dispctlByte u pwr brt], s.dispctl)
  | .kAddr u => some ([addrByte u], s.dispctl)
  | .kReserved u => some ([reservedByte u], s.dispctl)

/-- A frame-emitting command writes its DISPCTL and emits its frame. -/
theorem exec_of_sends {s : State} {i : Instr} {f : Frame} {d : BitVec 4} (h : sends s i = some (f, d)) :
    exec i s = emit f { s with dispctl := d } := by
  cases i <;> simp only [sends, Option.some.injEq, Prod.mk.injEq, reduceCtorEq] at h <;>
    (obtain ⟨rfl, rfl⟩ := h; rfl)

/-- Everything a command can do when it answers a next state. -/
theorem exec_cases {i : Instr} {s t : State} (h : exec i s = .next t) :
    (∃ c, i = .lookup c ∧ t = s.lookupChar c) ∨
    (∃ p m, i = .setdig p m ∧ t = s.setDigit p m) ∨
    (∃ r, i = .getrow r ∧ t = { s with result := (s.getRow r.toNat).setWidth 16 }) ∨
    (∃ p c, i = .putc p c ∧ t = (s.lookupChar c).setDigit p (s.lookupChar c).result) ∨
    (i = .clr ∧ t = s.clearRows) ∨
    (∃ f d, sends s i = some (f, d) ∧ emit f { s with dispctl := d } = .next t) := by
  cases i with
  | lookup c => cases h; exact .inl ⟨c, rfl, rfl⟩
  | setdig p m => cases h; exact .inr (.inl ⟨p, m, rfl, rfl⟩)
  | getrow r => cases h; exact .inr (.inr (.inl ⟨r, rfl, rfl⟩))
  | putc p c => cases h; exact .inr (.inr (.inr (.inl ⟨p, c, rfl, rfl⟩)))
  | clr => cases h; exact .inr (.inr (.inr (.inr (.inl ⟨rfl, rfl⟩))))
  | flush => exact .inr (.inr (.inr (.inr (.inr ⟨_, _, rfl, h⟩))))
  | cmd byte => exact .inr (.inr (.inr (.inr (.inr ⟨_, _, rfl, h⟩))))
  | setbrt level => exact .inr (.inr (.inr (.inr (.inr ⟨_, _, rfl, h⟩))))
  | setpwr on => exact .inr (.inr (.inr (.inr (.inr ⟨_, _, rfl, h⟩))))
  | kMode u => exact .inr (.inr (.inr (.inr (.inr ⟨_, _, rfl, h⟩))))
  | kDispctl u pwr brt => exact .inr (.inr (.inr (.inr (.inr ⟨_, _, rfl, h⟩))))
  | kAddr u => exact .inr (.inr (.inr (.inr (.inr ⟨_, _, rfl, h⟩))))
  | kReserved u => exact .inr (.inr (.inr (.inr (.inr ⟨_, _, rfl, h⟩))))

/-- Everything a step can do when it answers a next state. -/
theorem step_cases {s t : State} (h : step s = .next t) :
    (∃ f, s.emitting = some f ∧ poll f s = .next t) ∨
    (s.emitting = none ∧ s.pending = [] ∧ t = s) ∨
    (∃ item rest i, s.emitting = none ∧ s.pending = item :: rest ∧ decode item = .ok i ∧
      exec i { s with pending := rest } = .next t) ∨
    (∃ item rest, s.emitting = none ∧ s.pending = item :: rest ∧ t = undefinedCommand { s with pending := rest }) := by
  unfold step at h
  split at h
  · exact .inl ⟨_, ‹_›, h⟩
  · rename_i he
    split at h
    · cases h; exact .inr (.inl ⟨he, ‹_›, rfl⟩)
    · rename_i item rest hp
      unfold State.accept at h
      split at h
      · exact .inr (.inr (.inl ⟨item, rest, _, he, hp, ‹_›, h⟩))
      · cases h; exact .inr (.inr (.inr ⟨item, rest, he, hp, rfl⟩))

/-- With the port free, a step accepts the host's next item. -/
theorem step_accept {s : State} {item : PortItem} {rest : List PortItem} (he : s.emitting = none)
    (hp : s.pending = item :: rest) : step s = State.accept item { s with pending := rest } := by
  unfold step
  rw [he, hp]

/-- With a frame waiting, a step polls the link. -/
theorem step_poll {s : State} {f : Frame} (he : s.emitting = some f) : step s = poll f s := by
  unfold step
  rw [he]

/-- What a transposed or straight write leaves of the buffer (R111, R113). -/
theorem setDigit_buf (s : State) (pos : Byte) (mask : Mask) :
    (s.setDigit pos mask).buf =
      if pos.toNat < s.cfg.posCount then
        match s.cfg.topo with
        | .seg16 => Memory.sweep (columnByte s.cfg pos mask) s.cfg.rowCount s.buf
        | .seg7 => Memory.write s.buf pos.toNat (maskLow mask)
      else s.buf := by
  unfold State.setDigit Config.posCount
  cases h : s.cfg.topo <;> simp only <;> split <;> rfl

/-- SETDIG's effect keeps the buffer's canonical form. -/
theorem setDigit_wf {s : State} (h : Memory.wf s.buf) (pos : Byte) (mask : Mask) :
    Memory.wf (s.setDigit pos mask).buf := by
  rw [setDigit_buf]
  split
  · split
    · exact Memory.sweep_wf h _ _
    · exact Memory.write_wf h _ _
  · exact h

/-- A state is its fields: SETDIG's effect is an update of the buffer. -/
theorem setDigit_eq (s : State) (pos : Byte) (mask : Mask) :
    s.setDigit pos mask = { s with buf := (s.setDigit pos mask).buf } := by
  unfold State.setDigit; split <;> split <;> rfl

end Sys2Proof.Machine
end

