-- ==== Sys2Proof/Laws/Buffer.lean ====
section
/-! SUPPORT. What the look-up and the transposer leave, row by row and bit by bit. -/

namespace Sys2Proof.Machine

/-- A look-up hits exactly when an entry of the active font has the key. -/
theorem lookup_isSome (c : Config) (chr : Byte) :
    (c.lookup chr).isSome = c.font.any (fun g => g.character == c.lookupKey chr) := by
  simp only [Config.lookup, Option.isSome_map]
  rw [Bool.eq_iff_iff, List.find?_isSome, List.any_eq_true]

/-- `FOUND` as set (R28). -/
theorem statusWithFound_bit0 (st : BitVec 8) (b : Bool) : (statusWithFound st b).getLsbD 0 = b := by
  cases b <;> revert st <;> decide +kernel

/-- Setting `FOUND` leaves the other bits. -/
theorem statusWithFound_other (st : BitVec 8) (x : Bool) {b : Nat} (hb : b ≠ 0) :
    (statusWithFound st x).getLsbD b = st.getLsbD b := by
  have low : ∀ (st : BitVec 8) (x : Bool), ∀ b < 8, b ≠ 0 →
      (statusWithFound st x).getLsbD b = st.getLsbD b := by decide +kernel
  by_cases h8 : b < 8
  · exact low st x b h8 hb
  · rw [BitVec.getLsbD_of_ge _ _ (by omega), BitVec.getLsbD_of_ge _ _ (by omega)]

/-- The valid bits of a row in `SEG16` (R13). -/
theorem rowMask_bit {c : Config} (ht : c.topo = .seg16) {d : Nat} (hd : d < 8) :
    c.rowMask.getLsbD d = decide (d < c.digits) := by
  simp only [Config.rowMask, ht, BitVec.getLsbD_ofNat, hd, decide_true, Bool.true_and, Nat.testBit_two_pow_sub_one]

/-- The bit of a position is that position's alone. -/
theorem posBit_bit (p : Byte) {d : Nat} (hd : d < 8) : (posBit p).getLsbD d = decide (d = p.toNat) := by
  unfold posBit
  rw [BitVec.getLsbD_shiftLeft]
  by_cases h : d = p.toNat
  · simp [h]; omega
  · by_cases h2 : d < p.toNat
    · simp [h, h2]
    · simp [h, h2, hd, BitVec.getLsbD_one, show d - p.toNat ≠ 0 by omega]

/-- A position out of range changes nothing (R57). -/
theorem setDigit_out_of_range {s : State} (pos : Byte) (mask : Mask) (h : s.cfg.posCount ≤ pos.toNat) :
    s.setDigit pos mask = s := by
  rw [setDigit_eq, setDigit_buf, if_neg (by omega)]

/-- What SETDIG leaves in each row in `SEG16` (R111). -/
theorem read_setDigit_seg16 {s : State} (ht : s.cfg.topo = .seg16) (hw : Memory.wf s.buf) (pos : Byte) (mask : Mask)
    (a : Nat) :
    Memory.read (s.setDigit pos mask).buf a =
      if pos.toNat < s.cfg.digits ∧ a < 16 then columnByte s.cfg pos mask a (Memory.read s.buf a)
      else Memory.read s.buf a := by
  rw [setDigit_buf]
  simp only [Config.posCount, Config.rowCount, ht]
  by_cases h : pos.toNat < s.cfg.digits
  · simp [h, Memory.read_sweep hw]
  · simp [h]

/-- What SETDIG leaves in each row in `SEG7` (R113). -/
theorem read_setDigit_seg7 {s : State} (ht : s.cfg.topo = .seg7) (hw : Memory.wf s.buf) (pos : Byte) (mask : Mask)
    (a : Nat) :
    Memory.read (s.setDigit pos mask).buf a =
      if pos.toNat < s.cfg.rows7 ∧ a = pos.toNat then maskLow mask else Memory.read s.buf a := by
  rw [setDigit_buf]
  simp only [Config.posCount, Config.rowCount, ht]
  by_cases h : pos.toNat < s.cfg.rows7
  · simp [h, Memory.read_write hw]
  · simp [h]

/-- What CLR leaves in each row (R118). -/
theorem read_clearRows {s : State} (hw : Memory.wf s.buf) (a : Nat) :
    Memory.read s.clearRows.buf a = if a < s.cfg.rowCount then 0x00#8 else Memory.read s.buf a := by
  simp [Memory.read_sweep hw]

/-- `mask[7:0]` as a slice. -/
theorem maskLow_eq_extract (m : Mask) : maskLow m = m.extractLsb' 0 8 := by
  apply BitVec.eq_of_getLsbD_eq
  intro i hi
  simp [maskLow, hi]

/-- What `emit` leaves alone when it answers a next state: everything but the frame port and the lines. -/
theorem emit_frame {f : Frame} {s t : State} (h : emit f s = .next t) :
    t.cfg = s.cfg ∧ t.buf = s.buf ∧ t.dispctl = s.dispctl ∧ t.status = s.status ∧ t.result = s.result ∧
      t.pending = s.pending ∧ t.periphBusy = s.periphBusy := by
  rcases emit_cases h with ⟨-, -, rfl⟩ | ⟨-, rfl⟩
  · simp
  · rcases offer_cases f s with ⟨r, -, e⟩ | ⟨r, -, e⟩ | ⟨-, e⟩ <;> rw [e] <;> simp

/-- What a command that sends nothing leaves alone. -/
theorem exec_frame_of_sends_none {i : Instr} {s t : State} (h : exec i s = .next t) (hs : sends s i = none) :
    t.cfg = s.cfg ∧ t.dispctl = s.dispctl ∧ t.txlog = s.txlog ∧ t.linelog = s.linelog ∧ t.lstate = s.lstate ∧
      t.linemode = s.linemode ∧ t.pending = s.pending ∧ t.emitting = s.emitting ∧ t.periphBusy = s.periphBusy := by
  rcases exec_cases h with ⟨_, rfl, rfl⟩ | ⟨_, _, rfl, rfl⟩ | ⟨_, rfl, rfl⟩ | ⟨_, _, rfl, rfl⟩ | ⟨rfl, rfl⟩ |
    ⟨f, d, he, -⟩
  all_goals first
    | simp
    | (rw [hs] at he; cases he)

end Sys2Proof.Machine
end

