-- ==== Sys2Proof/Laws/Decode.lean ====
section
/-! SUPPORT. The fields of a command word, and what the decoder makes of a word with a given opcode. -/

namespace Sys2Proof

@[simp] theorem opField_commandWord (op a : Byte) (b : Mask) : opField (commandWord op a b) = op := by
  apply BitVec.eq_of_getLsbD_eq
  intro i hi
  simp only [opField, commandWord, BitVec.getLsbD_extractLsb', BitVec.getLsbD_append]
  simp [hi, show ¬ 24 + i < 16 by omega, show ¬ 24 + i - 16 < 8 by omega, show 24 + i - 16 - 8 = i by omega]

@[simp] theorem aField_commandWord (op a : Byte) (b : Mask) : aField (commandWord op a b) = a := by
  apply BitVec.eq_of_getLsbD_eq
  intro i hi
  simp only [aField, commandWord, BitVec.getLsbD_extractLsb', BitVec.getLsbD_append]
  simp [hi, show ¬ 16 + i < 16 by omega, show 16 + i - 16 = i by omega]

@[simp] theorem bField_commandWord (op a : Byte) (b : Mask) : bField (commandWord op a b) = b := by
  apply BitVec.eq_of_getLsbD_eq
  intro i hi
  simp only [bField, commandWord, BitVec.getLsbD_extractLsb', BitVec.getLsbD_append]
  simp [hi]

/-- A command word is its three fields (R70). -/
theorem commandWord_fields (cw : Word) : commandWord (opField cw) (aField cw) (bField cw) = cw := by
  apply BitVec.eq_of_getLsbD_eq
  intro i hi
  simp only [opField, aField, bField, commandWord, BitVec.getLsbD_extractLsb', BitVec.getLsbD_append]
  by_cases h : i < 16
  · simp [h]
  · by_cases h' : i - 16 < 8
    · simp [h, h', show 16 + (i - 16) = i by omega]
    · simp [h, h', show i - 16 - 8 < 8 by omega, show 24 + (i - 16 - 8) = i by omega]

@[simp] theorem setWidth8_of_chr (c : Byte) : (c.setWidth 16 : Mask).setWidth 8 = c := by simp

@[simp] theorem setWidth3_of_level (l : BitVec 3) : (l.setWidth 8 : Byte).setWidth 3 = l := by simp

@[simp] theorem getLsbD_of_on (b : Bool) : ((BitVec.ofBool b).setWidth 8 : Byte).getLsbD 0 = b := by cases b <;> rfl

end Sys2Proof
end

