-- ==== Sys2Proof/Laws/PerInstr.lean ====
section
/-! SUPPORT. The statements made per instruction. Family TableRow: an instruction's encoding has the format of its row of
spec/opcode_table.json and the row's fixed bits (30_encoding.md R71, R80). -/

namespace Sys2Proof.Laws.TableRow

/-- The fixed bits of each row: bits 31:24 of a C32 row, bits 7:6 of a K8 row. -/
def fixedBits : Instr → Byte ⊕ BitVec 2
  | .lookup _ => .inl 0x01#8
  | .setdig _ _ => .inl 0x02#8
  | .getrow _ => .inl 0x03#8
  | .putc _ _ => .inl 0x04#8
  | .clr => .inl 0x05#8
  | .flush => .inl 0x06#8
  | .cmd _ => .inl 0x07#8
  | .setbrt _ => .inl 0x08#8
  | .setpwr _ => .inl 0x09#8
  | .kMode _ => .inr 0b01#2
  | .kDispctl _ _ _ => .inr 0b10#2
  | .kAddr _ => .inr 0b11#2
  | .kReserved _ => .inr 0b00#2

/-- The fixed bits found in an item. -/
def fixedBitsOf : PortItem → Byte ⊕ BitVec 2
  | .word cw => .inl (opField cw)
  | .byte k => .inr (k.extractLsb' 6 2)

/-- The encoding of `i` lies in its row. -/
def Statement (i : Instr) : Prop := fixedBitsOf (encode i) = fixedBits i

theorem lookup (chr : Byte) : Statement (.lookup chr) := by simp [Statement, fixedBitsOf, fixedBits, encode]
theorem setdig (pos : Byte) (mask : Mask) : Statement (.setdig pos mask) := by
  simp [Statement, fixedBitsOf, fixedBits, encode]
theorem getrow (row : Byte) : Statement (.getrow row) := by simp [Statement, fixedBitsOf, fixedBits, encode]
theorem putc (pos chr : Byte) : Statement (.putc pos chr) := by simp [Statement, fixedBitsOf, fixedBits, encode]
theorem clr : Statement .clr := by simp [Statement, fixedBitsOf, fixedBits, encode]
theorem flush : Statement .flush := by simp [Statement, fixedBitsOf, fixedBits, encode]
theorem cmd (byte : Byte) : Statement (.cmd byte) := by simp [Statement, fixedBitsOf, fixedBits, encode]
theorem setbrt (level : BitVec 3) : Statement (.setbrt level) := by simp [Statement, fixedBitsOf, fixedBits, encode]
theorem setpwr (on : Bool) : Statement (.setpwr on) := by simp [Statement, fixedBitsOf, fixedBits, encode]

/-- The two top bits of a byte put together from a family and six more bits. -/
theorem family_of_append (x : BitVec 2) (u : BitVec 6) : (x ++ u : Byte).extractLsb' 6 2 = x := by
  apply BitVec.eq_of_getLsbD_eq
  intro i hi
  simp only [BitVec.getLsbD_extractLsb', BitVec.getLsbD_append]
  simp [hi]

theorem kMode (u : BitVec 6) : Statement (.kMode u) := congrArg Sum.inr (family_of_append _ u)
theorem kAddr (u : BitVec 6) : Statement (.kAddr u) := congrArg Sum.inr (family_of_append _ u)
theorem kReserved (u : BitVec 6) : Statement (.kReserved u) := congrArg Sum.inr (family_of_append _ u)
theorem kDispctl (u : BitVec 2) (pwr : Bool) (brt : BitVec 3) : Statement (.kDispctl u pwr brt) := by
  refine congrArg Sum.inr ?_
  apply BitVec.eq_of_getLsbD_eq
  intro i hi
  simp only [dispctlByte, BitVec.getLsbD_extractLsb', BitVec.getLsbD_append]
  simp [hi, show ¬ 6 + i < 3 by omega, show ¬ 6 + i - 3 < 1 by omega, show ¬ 6 + i - 3 - 1 < 2 by omega,
    show 6 + i - 3 - 1 - 2 = i by omega]

end Sys2Proof.Laws.TableRow
end

