-- ==== Sys2Proof/Tests/Slice0.lean ====
section
/-! SUPPORT. Tests on the spec's own vectors (95_test_vectors.md, ids T<n> and P<n>; 40_font_lookup.md for the fonts), the
refusals of the well-formedness checks, and one witness for each statement with hypotheses. -/

namespace Sys2Proof.Tests

open Sys2Proof.Machine

/-- The 16-segment topology with `n` digits, reference fonts, the serializer. -/
def cfg16 (n : Nat) : Config := { Config.default with digits := n }

/-- The 7-segment topology with `r` rows. -/
def cfg7 (r : Nat) : Config := { Config.default with topo := .seg7, rows7 := r, minusMask := 0x0040#16 }

/-- The reset state of `SEG16` with six digits. -/
def s16 : State := State.resetWith (cfg16 6)

/-- The reset state of `SEG7` with three rows. -/
def s7 : State := State.resetWith (cfg7 3)

/-- `s16` with an external link that answers as listed. -/
def ext (answers : List Bool) : State :=
  { State.resetWith { cfg16 6 with link := .external } with linkTakes := answers }

/-- The next state, where there is one. -/
def nextOf : Host.Outcome State Fault Refusal → Option State
  | .next t => some t
  | .fault _ => none
  | .refused _ => none

/-- One command word run from a state, and one field of the result. -/
def after (s : State) (cw : Nat) {α : Type} (field : State → α) : Option α :=
  (nextOf (step (s.withFetchWord 32 cw))).map field

/-! ## Decoding: words written out from the table, the ignored bits set -/

theorem test_decode_lookup : decodeTableWord 32 0b00000001_11111111_11111111_01000001 = some (.lookup 0x41#8) := by decide
theorem test_decode_setdig : decodeTableWord 32 0b00000010_00000001_00000000_01110110 = some (.setdig 1#8 0x0076#16) := by
  decide
theorem test_decode_getrow : decodeTableWord 32 0b00000011_00010000_00000000_00000001 = some (.getrow 16#8) := by decide
theorem test_decode_putc : decodeTableWord 32 0b00000100_00000010_10101010_01001000 = some (.putc 2#8 0x48#8) := by decide
theorem test_decode_clr : decodeTableWord 32 0x05ABCDEF = some .clr := by decide
theorem test_decode_flush : decodeTableWord 32 0b00000110_00000000_00000000_00000001 = some .flush := by decide
theorem test_decode_cmd : decodeTableWord 32 0x0740BEEF = some (.cmd 0x40#8) := by decide
theorem test_decode_setbrt : decodeTableWord 32 0x080D0000 = some (.setbrt 5#3) := by decide
theorem test_decode_setpwr : decodeTableWord 32 0x09020000 = some (.setpwr false) := by decide
theorem test_decode_kMode : decodeTableWord 8 0b01_000000 = some (.kMode 0#6) := by decide
theorem test_decode_kDispctl : decodeTableWord 8 0b10_00_1_111 = some (.kDispctl 0#2 true 7#3) := by decide
theorem test_decode_kAddr : decodeTableWord 8 0b11_001111 = some (.kAddr 0b001111#6) := by decide
theorem test_decode_kReserved : decodeTableWord 8 0b00_111111 = some (.kReserved 0b111111#6) := by decide
theorem test_decode_undefined : decode (.word 0xFF123456#32) = .error (.undefinedOpcode 0xFF#8) := by rfl

/-! ## Well-formedness: each check refuses an ill-formed term -/

theorem test_asm_lookup_chr : (AsmCmd.lookup 256).wf = false := by decide
theorem test_asm_setdig_pos : (AsmCmd.setdig 256 0).wf = false := by decide
theorem test_asm_setdig_mask : (AsmCmd.setdig 0 0x10000).wf = false := by decide
theorem test_asm_getrow_row : (AsmCmd.getrow 256).wf = false := by decide
theorem test_asm_putc_pos : (AsmCmd.putc 256 0).wf = false := by decide
theorem test_asm_putc_chr : (AsmCmd.putc 0 256).wf = false := by decide
theorem test_asm_cmd_byte : (AsmCmd.cmd 256).wf = false := by decide
theorem test_asm_setbrt_level : (AsmCmd.setbrt 8).wf = false := by decide
theorem test_asm_setpwr_on : (AsmCmd.setpwr 2).wf = false := by decide
theorem test_number_value_low : displayNumberArgsWf 0 (-32769) 1 = false := by decide
theorem test_number_value_high : displayNumberArgsWf 0 32768 1 = false := by decide
theorem test_number_width_zero : displayNumberArgsWf 0 0 0 = false := by decide
theorem test_number_field_end : displayNumberArgsWf 250 0 7 = false := by decide
theorem test_config_no_digits : ¬ (cfg16 0).Wf := by decide
theorem test_config_nine_digits : ¬ (cfg16 9).Wf := by decide
theorem test_config_no_rows : ¬ (cfg7 0).Wf := by decide
theorem test_config_four_rows : ¬ (cfg7 4).Wf := by decide
theorem test_font7_refuses_a_gap : font7Chars refFont7Digits = false := by decide +kernel
theorem test_font7_refuses_punctuation : font7Chars (⟨0x2D#8, 0#16⟩ :: refFont7) = false := by decide +kernel
theorem test_font16_refuses_lower_case : font16Chars (⟨0x61#8, 0#16⟩ :: refFont16) = false := by decide +kernel
theorem test_font16_refuses_a_gap : font16Chars refFont16Letters = false := by decide +kernel
theorem test_font_refuses_a_duplicate : fontNoDuplicates (⟨0x41#8, 0#16⟩ :: refFont7) = false := by decide +kernel
theorem test_reference_fonts_ok : Config.default.fontsOk = true := by decide +kernel

/-! ## Commands -/

/-- T1, T16. -/
theorem test_lookup_seg16 : after s16 0x01FFFF41 State.rsp = some 0x000103CF#32 := by decide +kernel
/-- T5: the last letter, upper-cased in `SEG7`. -/
theorem test_lookup_seg7 : after s7 0x0100007A State.rsp = some 0x0001005B#32 := by decide +kernel
/-- T22: overwrite, not merge. -/
theorem test_setdig_overwrites :
    after { s16 with buf := [(9, 0x01#8), (10, 0x20#8)] } 0x02000001 State.buf = some [(0, 0x01#8), (10, 0x20#8)] := by
  decide +kernel
/-- T32: `pos = R`. -/
theorem test_setdig_out_of_range :
    after { s7 with buf := [(0, 0xFF#8)] } 0x02030055 State.buf = some [(0, 0xFF#8)] := by decide +kernel
/-- T44: the highest row, the highest bit. -/
theorem test_getrow_highest :
    after { State.resetWith (cfg16 8) with buf := [(0, 0x80#8), (15, 0x80#8)] } 0x030F0000 State.result =
      some 0x0080#16 := by decide +kernel
/-- T46, T47: `row = R` reads 0 and FOUND is kept. -/
theorem test_getrow_out_of_range :
    after { s7 with buf := [(2, 0x80#8)], status := 1#8, result := 5#16 } 0x03030000 State.rsp =
      some 0x00010000#32 := by decide +kernel
/-- T35. -/
theorem test_putc_hit :
    after s16 0x04020048 State.buf =
      some [(2, 4#8), (3, 4#8), (6, 4#8), (7, 4#8), (8, 4#8), (9, 4#8)] := by decide +kernel
/-- T38: a miss and an index out of range at once. -/
theorem test_putc_both_conditions :
    after { s16 with buf := [(2, 4#8)], status := 1#8 } 0x04C8003F (fun t => (t.rsp, t.buf)) =
      some (0#32, [(2, 4#8)]) := by decide +kernel
/-- T48. -/
theorem test_clr : after { s16 with buf := [(0, 0x20#8), (9, 0x21#8)] } 0x05000000 State.buf = some [] := by decide +kernel
/-- T51. -/
theorem test_flush_seg16 :
    after { s16 with buf := [(9, 0x01#8)] } 0x06000000 State.txlog =
      some [[0xC0#8, 0, 0, 0, 0, 0, 0, 0, 0, 0, 1, 0, 0, 0, 0, 0, 0]] := by decide +kernel
/-- T53. -/
theorem test_flush_seg7 :
    after { s7 with buf := [(0, 0xFF#8), (2, 0x80#8)] } 0x06000000 State.txlog = some [[0xC0#8, 0xFF#8, 0#8, 0x80#8]] := by
  decide +kernel
/-- T58: DISPCTL is not touched. -/
theorem test_cmd :
    after { s16 with dispctl := 5#4 } 0x078F0000 (fun t => (t.txlog, t.dispctl)) = some ([[0x8F#8]], 5#4) := by
  decide +kernel
/-- T64: brightness 2 while on. -/
theorem test_setbrt :
    after { s16 with dispctl := 0xF#4 } 0x08020000 (fun t => (t.txlog, t.dispctl)) = some ([[0x8A#8]], 0xA#4) := by
  decide +kernel
/-- T65: off, brightness kept. -/
theorem test_setpwr :
    after { s16 with dispctl := 0xA#4 } 0x09000000 (fun t => (t.txlog, t.dispctl)) = some ([[0x82#8]], 0x2#4) := by
  decide +kernel
/-- A controller byte is sent as it is (R136, R228). -/
theorem test_kDispctl :
    (nextOf (step ({ s16 with dispctl := 5#4 }.withFetchWord 8 0xBF))).map (fun t => (t.txlog, t.dispctl)) =
      some ([[0xBF#8]], 5#4) := by decide +kernel
/-- The mode-set byte (R82). -/
theorem test_kMode : (nextOf (step (s16.withFetchWord 8 0x40))).map State.txlog = some [[0x40#8]] := by decide +kernel
/-- The address-set byte alone (R137 (b)). -/
theorem test_kAddr : (nextOf (step (s16.withFetchWord 8 0xC5))).map State.txlog = some [[0xC5#8]] := by decide +kernel
/-- A reserved byte (R83). -/
theorem test_kReserved : (nextOf (step (s16.withFetchWord 8 0x3F))).map State.txlog = some [[0x3F#8]] := by decide +kernel
/-- T76, T78. -/
theorem test_undefined : after { s16 with status := 1#8 } 0x0A000000 State.rsp = some 0x00030000#32 := by decide +kernel

/-- P5: the lines, the serializer at rest, and the number of events. -/
theorem test_serializer_rest :
    after s16 0x09010000 (fun t => (t.clk, t.dio, t.lstate, t.linemode, t.linelog.length)) =
      some (true, true, .idle, .periph, 53) := by decide +kernel
/-- P5: the sixth to fifteenth events are bits 0 and 1 of `0x88`, and bit 3 is the first 1. -/
theorem test_serializer_bits :
    after s16 0x09010000 (fun t => (t.linelog[6]?, t.linelog[21]?, t.linelog[41]?)) =
      some (some (.dio false), some (.dio true), some (.dio true)) := by decide +kernel
/-- T71: what a receiver gets of `[0x8D]`. -/
theorem test_receiver : ((Receiver.fresh true false).seeAll (frameEvents [0x8D#8])).frames = [[0x8D#8]] := by
  decide +kernel

/-- A hang (R192): DISPCTL written, the frame not logged, the port stalled, and then no next state. -/
theorem test_hang :
    after (ext []) 0x08050000 (fun t => (t.dispctl, t.txlog, t.emitting, (nextOf (step t)).isNone)) =
      some (5#4, [], some [0x85#8], true) := by decide +kernel

/-- P1 after five PUTCs: position 1 reads back as `'E'` (R119). -/
theorem test_digit_mask :
    ({ s16 with buf := [(0, 0x12#8), (1, 0x12#8), (2, 0x11#8), (3, 0x11#8), (4, 0x1E#8), (5, 0x1E#8), (6, 0x1F#8),
        (7, 0x1F#8), (8, 0x03#8), (9, 0x01#8)] }.digitMask 1) = 0x01F3#16 := by decide +kernel

/-! ## Macros -/

/-- T90. -/
theorem test_number_lowest :
    (displayNumber (cfg16 6) 0 (-32768) false 6).map (List.map encode) =
      some [.word 0x02000300#32, .word 0x04010033#32, .word 0x04020032#32, .word 0x04030037#32, .word 0x04040036#32,
        .word 0x04050038#32] := by decide +kernel
/-- T89. -/
theorem test_number_overflow :
    (displayNumber (cfg16 6) 0 (-12) true 2).map (List.map encode) = some [.word 0x02000300#32, .word 0x04010032#32] := by
  decide +kernel
/-- T94. -/
theorem test_string_truncated :
    (displayString (cfg16 6) 4 [0x41#8, 0x42#8, 0x20#8, 0x43#8]).map encode =
      [.word 0x04040041#32, .word 0x04050042#32] := by decide +kernel

/-! ## Witnesses: the hypotheses of each statement, met together -/

/-- The reset states meet the invariant (used by the witnesses below). -/
theorem resetWith_inv (c : Config) (hc : c.Wf) : (State.resetWith c).Inv where
  cfg_wf := hc
  buf_wf := show Memory.wf [] by decide
  buf_rows := by intro x h; cases h
  rows_masked := fun _ => BitVec.zero_and
  status_reserved := BitVec.zero_and
  txlog_shape := by intro f h; cases h
  emitting_shape := by intro f h; cases h
  emitting_link := fun _ => rfl
  lstate_idle := rfl
  linemode_periph := rfl

theorem s16_inv : s16.Inv := resetWith_inv _ (by decide)
theorem s7_inv : s7.Inv := resetWith_inv _ (by decide)

theorem witness_WordDecodesExactlyForTheNineOpcodes :
    (1 ≤ (opField 0x01000000#32).toNat ∧ (opField 0x01000000#32).toNat ≤ 9) ∧
    (1 ≤ (opField 0x09FFFFFF#32).toNat ∧ (opField 0x09FFFFFF#32).toNat ≤ 9) ∧
    ¬ (1 ≤ (opField 0x00FFFFFF#32).toNat ∧ (opField 0x00FFFFFF#32).toNat ≤ 9) ∧
    ¬ (1 ≤ (opField 0x0A000000#32).toNat ∧ (opField 0x0A000000#32).toNat ≤ 9) := by decide

theorem witness_IgnoredBitsAndOnlyThoseAreIgnored :
    decodeWord 0x080D0000#32 = .ok (.setbrt 5#3) ∧ decodeWord 0x0805FFFF#32 = .ok (.setbrt 5#3) ∧
    decodeWord 0x08040000#32 = .ok (.setbrt 4#3) := ⟨rfl, rfl, rfl⟩

theorem witness_AssemblerWordsAndRefusals :
    (assemble (.setdig 255 0xFFFF)).isSome ∧ (assemble (.setdig 0 0x10000)).isNone ∧ (assemble (.putc 256 0)).isNone ∧
    (assemble (.setbrt 7)).isSome ∧ (assemble (.setbrt 8)).isNone ∧ (assemble (.setpwr 1)).isSome ∧
    (assemble (.setpwr 2)).isNone := by decide

theorem witness_StepRunsTheDecodedCommand :
    let s := { s16 with pending := [.word 0x06000000#32, .word 0#32] }
    s.emitting = none ∧ s.pending = .word 0x06000000#32 :: [.word 0#32] ∧
      decode (.word 0x06000000#32) = .ok .flush := ⟨rfl, rfl, rfl⟩

theorem witness_FetchedTableWordIsExecuted : decodeTableWord 8 0x40 = some (.kMode 0#6) := by decide

theorem witness_UndefinedWordSetsIllAndNothingElse :
    let s := { s16 with pending := [.word 0x0A000000#32] }
    s.emitting = none ∧ s.pending = [.word 0x0A000000#32] ∧
      ¬ (1 ≤ (opField 0x0A000000#32).toNat ∧ (opField 0x0A000000#32).toNat ≤ 9) := ⟨rfl, rfl, by decide⟩

theorem witness_StalledPortOnlyAsksTheLink :
    ({ ext [true] with emitting := some [0x40#8] }.linkTakes = true :: []) ∧
    ({ ext [false] with emitting := some [0x40#8] }.linkTakes = false :: []) ∧
    ({ ext [] with emitting := some [0x40#8] }.linkTakes = []) ∧
    ({ ext [] with emitting := some [0x40#8] }.emitting = some [0x40#8]) := by decide

theorem witness_LookupGivesTheFirstMatch :
    (s16.cfg.topo = .seg16 ∧ s16.cfg.font16 = refFont16Digits ++ ⟨0x41#8, 0x03CF#16⟩ :: (refFont16.drop 11) ∧
      (∀ g ∈ refFont16Digits, g.character ≠ 0x41#8)) ∧
    (s7.cfg.topo = .seg7 ∧ upcase 0x61#8 = 0x41#8 ∧
      s7.cfg.font7 = refFont7Digits ++ ⟨0x41#8, 0x0077#16⟩ :: (refFont7.drop 11) ∧
      (∀ g ∈ refFont7Digits, g.character ≠ 0x41#8)) ∧
    (∀ g ∈ s16.cfg.font16, g.character ≠ 0x61#8) ∧ (∀ g ∈ s7.cfg.font7, g.character ≠ upcase 0x2D#8) := by
  decide +kernel

theorem witness_UpcaseMovesOnlyLowerCaseLetters :
    (0x61 ≤ (0x61#8 : Byte).toNat ∧ (0x7A#8 : Byte).toNat ≤ 0x7A) ∧
    ¬ (0x61 ≤ (0x60#8 : Byte).toNat ∧ (0x60#8 : Byte).toNat ≤ 0x7A) ∧
    ¬ (0x61 ≤ (0x7B#8 : Byte).toNat ∧ (0x7B#8 : Byte).toNat ≤ 0x7A) := by decide

theorem witness_LookupUnderTheFontPremises :
    s16.cfg.fontsOk = true ∧ s16.cfg.topo = .seg16 ∧ s7.cfg.fontsOk = true ∧ s7.cfg.topo = .seg7 ∧
      isLower 0x7A#8 = true ∧ isAlnum 0x5A#8 = true ∧ isAlnum 0x2D#8 = false := by decide +kernel

theorem witness_LookupReadsOnlyTheActiveFont :
    let s := { s16 with status := 3#8, buf := [(1, 1#8)] }
    s16.cfg.topo = s.cfg.topo ∧ s16.cfg.font16 = s.cfg.font16 ∧ s16 ≠ s := by decide +kernel

theorem witness_SetdigTransposesInSeg16 :
    opField 0x02050001#32 = 0x02#8 ∧ s16.cfg.topo = .seg16 ∧ Memory.wf s16.buf ∧ (5#8 : Byte).toNat < s16.cfg.digits ∧
      s16.cfg.digits ≤ (6#8 : Byte).toNat := by decide

theorem witness_SetdigRoundTripAndLocality :
    s16.cfg.topo = .seg16 ∧ s16.Inv ∧ (5#8 : Byte).toNat < s16.cfg.digits ∧ s16.cfg.digits ≤ (255#8 : Byte).toNat :=
  ⟨rfl, s16_inv, by decide, by decide⟩

theorem witness_SetdigOverwritesAndCommutes : s16.Inv ∧ s7.Inv ∧ (0#8 : Byte) ≠ 5#8 := ⟨s16_inv, s7_inv, by decide⟩

theorem witness_SetdigWritesTheRowInSeg7 :
    s7.cfg.topo = .seg7 ∧ Memory.wf s7.buf ∧ (2#8 : Byte).toNat < s7.cfg.rows7 ∧ s7.cfg.rows7 ≤ (3#8 : Byte).toNat := by
  decide

theorem witness_DigitMaskAfterSetdig :
    s16.Inv ∧ (5#8 : Byte).toNat < s16.cfg.posCount ∧ s7.Inv ∧ (2#8 : Byte).toNat < s7.cfg.posCount :=
  ⟨s16_inv, by decide, s7_inv, by decide⟩

theorem witness_GetrowReadsTheMaskedRow :
    opField 0x030F0000#32 = 0x03#8 ∧ s16.cfg.topo = .seg16 ∧ (15#8 : Byte).toNat < 16 ∧ 16 ≤ (16#8 : Byte).toNat ∧
      s7.cfg.topo = .seg7 ∧ (2#8 : Byte).toNat < s7.cfg.rows7 ∧ s7.cfg.rows7 ≤ (3#8 : Byte).toNat := by decide

theorem witness_ClrZeroesTheBuffer : Memory.wf s16.buf ∧ s16.Inv := ⟨by decide, s16_inv⟩

theorem witness_PutcShowsTheCharacter :
    s16.Inv ∧ s16.cfg.lookup 0x48#8 = some 0x03CC#16 ∧ s16.cfg.lookup 0x68#8 = none ∧
      (5#8 : Byte).toNat < s16.cfg.posCount ∧ s16.cfg.posCount ≤ (6#8 : Byte).toNat ∧
      s7.Inv ∧ s7.cfg.lookup 0x68#8 = some 0x0076#16 ∧ (2#8 : Byte).toNat < s7.cfg.posCount ∧
      s7.cfg.posCount ≤ (3#8 : Byte).toNat :=
  ⟨s16_inv, by decide +kernel, by decide +kernel, by decide, by decide, s7_inv, by decide +kernel, by decide, by decide⟩

/-- For Obligations.FlushSendsEveryRow, CmdSendsItsByteUnchecked, SetbrtSendsTheLevel, SetpwrSendsThePower and
ControllerBytesAreSentAsFrames: both kinds of link. -/
theorem witness_linkReady : s16.linkReady ∧ s7.linkReady ∧ (ext [true, false]).linkReady := by decide

/-- Both kinds of link; an emitter, and a command that emits nothing. -/
theorem witness_EveryEmitterHasOneFrame :
    s16.linkReady ∧ (ext [true]).linkReady ∧ (∀ c, Instr.flush ≠ .lookup c) ∧ (∀ p m, Instr.flush ≠ .setdig p m) ∧
      (∀ r, Instr.flush ≠ .getrow r) ∧ (∀ p c, Instr.flush ≠ .putc p c) ∧ Instr.flush ≠ .clr ∧
      (∃ p m, Instr.setdig 0#8 1#16 = .setdig p m) :=
  ⟨by decide, by decide, nofun, nofun, nofun, nofun, nofun, 0#8, 1#16, rfl⟩

theorem witness_FlushFrameIsGetrowInOrder : s16.cfg.Wf ∧ s16.linkReady ∧ s7.cfg.Wf ∧ s7.linkReady := by decide

theorem witness_FlushAfterClrSendsZeros :
    let s := { s7 with buf := [(2, 0x80#8)] }
    Memory.wf s.buf ∧ s.linkReady := by decide

theorem witness_PowerCycleKeepsTheBrightness :
    let s := { s16 with dispctl := 0xD#4 }
    let e := { ext [true, true, false] with dispctl := 8#4 }
    (s.cfg.link = .serializer ∧ s.periphBusy = false ∧ s.dispctl.getLsbD 3 = true) ∧
      (e.cfg.link = .external ∧ e.linkTakes.take 2 = [true, true] ∧ e.dispctl.getLsbD 3 = true) := by decide

theorem witness_UntakenFrameWaits :
    (ext [false]).cfg.link = .external ∧ (ext [false]).linkTakes = false :: [] ∧ (ext []).linkTakes = [] ∧
      Emits (ext []) (.setbrt 5#3) [0x85#8] 5#4 ∧ Emits (ext []) .flush (ext []).flushFrame 0#4 :=
  ⟨rfl, rfl, rfl, .setbrt 5#3 5#4 (by decide) (by decide), .flush⟩

theorem witness_SlowLinkTakesTheFrameInTheEnd :
    let s := { ext [false, false, true] with emitting := some [0x40#8] }
    s.emitting = some [0x40#8] ∧ s.linkTakes = List.replicate 2 false ++ true :: [] := by decide

theorem witness_BusyPeripheralStopsEmitters :
    let s := { s16 with periphBusy := true }
    s.cfg.link = .serializer ∧ s.periphBusy = true ∧ Emits s (.setpwr true) [0x88#8] 8#4 ∧ Emits s (.cmd 0#8) [0#8] 0#4 :=
  ⟨rfl, rfl, .setpwr true 8#4 (by decide) (by decide), .cmd 0#8⟩

theorem witness_FrameTakes13Plus40NLineEvents :
    s16.cfg.link = .serializer ∧ s16.periphBusy = false ∧ Emits s16 (.kMode 0#6) [0x40#8] 0#4 := ⟨rfl, rfl, .kMode 0#6⟩

theorem witness_StepKeepsLinesCarryingFrames :
    let s := { s16 with pending := [.word 0x07400000#32] }
    s.cfg.link = .serializer ∧ s.emitting = none ∧ s.LinesCarryFrames ∧ ∃ t, step s = .next t :=
  ⟨rfl, rfl, ⟨rfl, rfl⟩, _, rfl⟩

theorem witness_ResetMeetsTheInvariant : (cfg16 1).Wf ∧ (cfg16 8).Wf ∧ (cfg7 1).Wf ∧ (cfg7 3).Wf := by decide

theorem witness_StepKeepsTheInvariant : s16.Inv ∧ ∃ t, step (s16.withFetchWord 32 0x04020048) = .next t :=
  ⟨s16_inv, _, rfl⟩

theorem witness_IllIsSticky :
    let s := { s16 with status := 2#8, pending := [.word 0x01000041#32] }
    s.status.getLsbD 1 = true ∧ ∃ t, step s = .next t := ⟨rfl, _, rfl⟩

/-- For the statements on what a command writes (WritersOfStatusAndResult, WritersOfDispctl, WritersOfTheDigitBuffer,
CommandsKeepProgramAndParameters): CMD answers a next state and is none of the writers. -/
theorem witness_Writers : ∃ t, exec (.cmd 0x40#8) s16 = .next t := ⟨_, rfl⟩

theorem witness_FrameLogGrowsByAtMostOneFrame :
    s16.Inv ∧ (∃ t, step s16 = .next t) ∧ (∃ t, exec .clr s16 = .next t) ∧
      ∃ t, exec (.cmd 0x40#8) s16 = .next t ∧ t.txlog = s16.txlog ++ [[0x40#8]] :=
  ⟨s16_inv, ⟨_, rfl⟩, ⟨_, rfl⟩, _, rfl, rfl⟩

/-- Three items: a PUTC, an undefined word, a FLUSH. -/
theorem witness_EveryProgramEndsOverTheSerializer :
    let s := { s16 with pending := [.word 0x04020048#32, .word 0x0A000000#32, .word 0x06000000#32] }
    s.Inv ∧ s.cfg.link = .serializer ∧ s.periphBusy = false ∧ s.pending.length = 3 :=
  ⟨⟨s16_inv.1, s16_inv.2, s16_inv.3, s16_inv.4, s16_inv.5, s16_inv.6, s16_inv.7, s16_inv.8, s16_inv.9, s16_inv.10⟩,
    rfl, rfl, rfl⟩

theorem witness_DisplayStringHello :
    (cfg16 6).posCount = 6 ∧ (cfg7 3).posCount = 3 ∧
      ∃ s : State, s.Inv ∧ s.cfg.posCount = 6 ∧ s.emitting = none ∧
        s.pending = (displayString s.cfg 0 [0x48#8, 0x45#8, 0x4C#8, 0x4C#8, 0x4F#8]).map encode :=
  ⟨by decide, by decide,
    { s16 with pending := (displayString (cfg16 6) 0 [0x48#8, 0x45#8, 0x4C#8, 0x4C#8, 0x4F#8]).map encode },
    ⟨s16_inv.1, s16_inv.2, s16_inv.3, s16_inv.4, s16_inv.5, s16_inv.6, s16_inv.7, s16_inv.8, s16_inv.9, s16_inv.10⟩,
    by decide, rfl, rfl⟩

theorem witness_DisplayNumberProperties : 254 + 1 ≤ 255 ∧ 252 + 3 ≤ 255 ∧ 2 ≤ 2 ∧ 254 + 2 - 1 ≤ 255 := by decide

theorem witness_DisplayNumberSpellsTheValue :
    (1 ≤ 5 ∧ 251 + 5 - 1 ≤ 255 ∧ 32767 ≤ 32767) ∧ (1 ≤ 1 ∧ 255 + 1 - 1 ≤ 255 ∧ 1 ≤ 32768 ∧ 32768 ≤ 32768) := by decide

end Sys2Proof.Tests
end

section
/-! PROOFS. The transposer: SETDIG in `SEG16`, and GETROW (41_buffer_transposer.md R111, R116). -/

namespace Sys2Proof.Machine

/-! ## The words of SETDIG and GETROW (R71) -/

theorem decode_word_setdig {cw : Word} (h : opField cw = 0x02#8) :
    decode (.word cw) = .ok (.setdig (aField cw) (bField cw)) := by
  simp [decode, decodeWord, h]

theorem decode_word_getrow {cw : Word} (h : opField cw = 0x03#8) :
    decode (.word cw) = .ok (.getrow (aField cw)) := by
  simp [decode, decodeWord, h]

/-! ## The parameters of each topology (R10, R12, R13) -/

theorem rowCount_seg16 {c : Config} (ht : c.topo = .seg16) : c.rowCount = 16 := by simp [Config.rowCount, ht]

theorem rowCount_seg7 {c : Config} (ht : c.topo = .seg7) : c.rowCount = c.rows7 := by simp [Config.rowCount, ht]

theorem posCount_seg16 {c : Config} (ht : c.topo = .seg16) : c.posCount = c.digits := by simp [Config.posCount, ht]

theorem rowMask_seg16 {c : Config} (ht : c.topo = .seg16) : c.rowMask = BitVec.ofNat 8 (2 ^ c.digits - 1) := by
  simp [Config.rowMask, ht]

theorem rowMask_seg7 {c : Config} (ht : c.topo = .seg7) : c.rowMask = 0xFF#8 := by simp [Config.rowMask, ht]

/-! ## SETDIG -/

/-- SETDIG writes the buffer and nothing else, in either topology. -/
theorem exec_setdig_eq (pos : Byte) (mask : Mask) (s : State) :
    exec (.setdig pos mask) s = .next { s with buf := (s.setDigit pos mask).buf } :=
  congrArg Host.Outcome.next (setDigit_eq s pos mask)

/-- SETDIG at a position that does not exist leaves the whole state (R57, R111, R113). -/
theorem exec_setdig_out_of_range {s : State} {pos : Byte} (mask : Mask) (h : s.cfg.posCount ≤ pos.toNat) :
    exec (.setdig pos mask) s = .next s :=
  congrArg Host.Outcome.next (setDigit_out_of_range pos mask h)

/-- The row a transposed write leaves in `SEG16`, as the pseudocode of R111 has it. -/
theorem columnByte_seg16 {c : Config} (ht : c.topo = .seg16) (pos : Byte) (mask : Mask) (row : Nat) (old : Byte) :
    columnByte c pos mask row old =
      if mask.getLsbD row then (old ||| 1#8 <<< pos.toNat) &&& BitVec.ofNat 8 (2 ^ c.digits - 1)
      else (old &&& ~~~ (1#8 <<< pos.toNat)) &&& BitVec.ofNat 8 (2 ^ c.digits - 1) := by
  rw [columnByte, posBit, rowMask_seg16 ht]

/-- Settles O15: SETDIG's buffer is canonical (`setDigit_wf`) and its rows are those of `read_setDigit_seg16`. -/
theorem setdigTransposesInSeg16 : Obligations.SetdigTransposesInSeg16 := by
  unfold Obligations.SetdigTransposesInSeg16
  refine ⟨fun _ hop => decode_word_setdig hop, fun s pos mask ht hwf => ⟨fun hpos => ?_, fun hpos => ?_⟩⟩
  · refine ⟨(s.setDigit pos mask).buf, exec_setdig_eq pos mask s, setDigit_wf hwf pos mask,
      fun row hrow => ?_, fun row hrow => ?_⟩
    · rw [read_setDigit_seg16 ht hwf, if_pos ⟨hpos, hrow⟩, columnByte_seg16 ht]
    · rw [read_setDigit_seg16 ht hwf, if_neg (by omega)]
  · exact exec_setdig_out_of_range mask (by rwa [posCount_seg16 ht])

/-! ## GETROW -/

theorem getRow_in_range {s : State} {row : Nat} (h : row < s.cfg.rowCount) :
    s.getRow row = Memory.read s.buf row &&& s.cfg.rowMask := by
  rw [State.getRow, if_pos h]

theorem getRow_out_of_range {s : State} {row : Nat} (h : s.cfg.rowCount ≤ row) : s.getRow row = 0x00#8 := by
  rw [State.getRow, if_neg (by omega)]

/-- GETROW puts its read primitive into RESULT, zero-extended, and changes nothing else (R116). -/
theorem exec_getrow_eq (row : Byte) (s : State) :
    exec (.getrow row) s = .next { s with result := 0x00#8 ++ s.getRow row.toNat } := by
  have zext : (s.getRow row.toNat).setWidth 16 = 0x00#8 ++ s.getRow row.toNat := BitVec.setWidth_eq_append (by decide)
  rw [← zext]; rfl

/-- Settles O20: in either topology `r` is the row count and `valid` the row mask, so GETROW is its read primitive. -/
theorem getrowReadsTheMaskedRow : Obligations.GetrowReadsTheMaskedRow := by
  unfold Obligations.GetrowReadsTheMaskedRow
  refine ⟨fun _ hop => decode_word_getrow hop, fun s row r valid htopo => ?_⟩
  obtain ⟨rfl, rfl⟩ : r = s.cfg.rowCount ∧ valid = s.cfg.rowMask := by
    rcases htopo with ⟨ht, rfl, rfl⟩ | ⟨ht, rfl, rfl⟩
    · exact ⟨(rowCount_seg16 ht).symm, (rowMask_seg16 ht).symm⟩
    · exact ⟨(rowCount_seg7 ht).symm, (rowMask_seg7 ht).symm⟩
  refine ⟨fun hrow => ?_, fun hrow => ?_⟩
  · rw [exec_getrow_eq, getRow_in_range hrow]
  · rw [exec_getrow_eq, getRow_out_of_range hrow]; rfl

end Sys2Proof.Machine
end

section
/-! PROOFS. The frame encoder: FLUSH's frame row by row (42_frame_encoder.md R130 to R132). -/

namespace Sys2Proof.Machine

/-! ## The frame port -/

/-- Where the link takes a frame at once, `emit` completes with the frame, and no other, added to TXLOG (R30). -/
theorem emit_of_linkReady {s : State} (f : Frame) (h : s.linkReady) :
    ∃ t, emit f s = .next t ∧ t.txlog = s.txlog ++ [f] := by
  rcases h with ⟨hlink, hidle⟩ | ⟨hlink, htakes⟩
  · exact ⟨_, emit_serializer f hlink hidle, rfl⟩
  · obtain ⟨rest, hrest⟩ := List.head?_eq_some_iff.mp htakes
    exact ⟨_, emit_taken f hlink hrest, rfl⟩

/-! ## FLUSH and its frame (R78, R131) -/

theorem exec_flush_eq (s : State) : exec .flush s = emit s.flushFrame s := rfl

theorem flushFrame_length (s : State) : s.flushFrame.length = s.cfg.rowCount + 1 := by simp [State.flushFrame]

theorem flushFrame_head (s : State) : s.flushFrame[0]? = some 0xC0#8 := rfl

/-- After `ADDR_CMD`, byte `i` of the flush frame is what the read primitive of GETROW gives for row `i`. -/
theorem flushFrame_row {s : State} {i : Nat} (h : i < s.cfg.rowCount) :
    s.flushFrame[1 + i]? = some (s.getRow i) := by
  rw [getRow_in_range h, Nat.add_comm]
  simp [State.flushFrame, h]

/-! ## GETROW of a row of the frame -/

/-- A row index of a legal configuration fits the operand field of GETROW (R10, R71). -/
theorem rowCount_lt_of_wf {c : Config} (h : c.Wf) : c.rowCount < 256 := by
  obtain ⟨-, -, hrows7⟩ := h
  cases ht : c.topo with
  | seg16 => rw [rowCount_seg16 ht]; decide
  | seg7 => rw [rowCount_seg7 ht]; omega

/-- GETROW leaves its read primitive in the low byte of RESULT (R116). -/
theorem exec_getrow_result_low (row : Byte) (s : State) :
    ∃ u, exec (.getrow row) s = .next u ∧ u.result.extractLsb' 0 8 = s.getRow row.toNat :=
  ⟨_, exec_getrow_eq row s, BitVec.extractLsb'_append_eq_right⟩

/-- Settles O30: byte `1 + i` of the frame and the low byte of RESULT are both the read primitive at row `i`, which is the
operand itself because a legal row count is below 256. -/
theorem flushFrameIsGetrowInOrder : Obligations.FlushFrameIsGetrowInOrder := by
  unfold Obligations.FlushFrameIsGetrowInOrder
  intro s hwf hready
  obtain ⟨t, hemit, hlog⟩ := emit_of_linkReady s.flushFrame hready
  refine ⟨t, s.flushFrame, (exec_flush_eq s).trans hemit, hlog, flushFrame_length s, flushFrame_head s, fun i hi => ?_⟩
  have operand : (BitVec.ofNat 8 i).toNat = i := Nat.mod_eq_of_lt (hi.trans (rowCount_lt_of_wf hwf))
  obtain ⟨u, hget, hlow⟩ := exec_getrow_result_low (BitVec.ofNat 8 i) s
  exact ⟨u, hget, by rw [flushFrame_row hi, hlow, operand]⟩

end Sys2Proof.Machine
end

section
/-! PROOFS. The host macros: display_string on the machine that runs it, and display_number's columns
(44_host_macros.md R172 to R176). -/

namespace Sys2Proof.Machine

/-! ## What a write at one position leaves of the others (R22, R111, R113, R119) -/

/-- A row changes only if the buffer does: the read primitive sees the rows through the mask alone. -/
theorem getRow_congr {s t : State} (hc : t.cfg = s.cfg) {row : Nat}
    (h : Memory.read t.buf row = Memory.read s.buf row) : t.getRow row = s.getRow row := by
  rw [State.getRow, State.getRow, hc, h]

/-- A transposed write changes no valid bit of a row other than its own position's. -/
theorem columnByte_other_bit (c : Config) {pos : Byte} (mask : Mask) (row : Nat) (old : Byte) {d : Nat}
    (hd : d ≠ pos.toNat) : (columnByte c pos mask row old &&& c.rowMask).getLsbD d = (old &&& c.rowMask).getLsbD d := by
  by_cases h8 : d < 8
  · have own : (posBit pos)[d] = false := (posBit_bit pos h8).trans (decide_eq_false hd)
    unfold columnByte
    split <;> simp [own, h8]
  · rw [BitVec.getLsbD_of_ge _ _ (by omega), BitVec.getLsbD_of_ge _ _ (by omega)]

/-- SETDIG's effect in `SEG16`: in every row, the bits of the other positions are as they were. -/
theorem getRow_setDigit_other_bit {s : State} (ht : s.cfg.topo = .seg16) (hw : Memory.wf s.buf) {pos : Byte}
    (mask : Mask) (row : Nat) {d : Nat} (hd : d ≠ pos.toNat) :
    ((s.setDigit pos mask).getRow row).getLsbD d = (s.getRow row).getLsbD d := by
  simp only [State.getRow, setDigit_cfg, read_setDigit_seg16 ht hw]
  by_cases hpos : pos.toNat < s.cfg.digits ∧ row < 16
  · rw [if_pos hpos]
    split
    · exact columnByte_other_bit s.cfg mask row _ hd
    · rfl
  · rw [if_neg hpos]

/-- SETDIG's effect shows at its own position only, in either topology. -/
theorem digitMask_setDigit_other {s : State} (hw : Memory.wf s.buf) {pos : Byte} (mask : Mask) {d : Nat}
    (hd : d ≠ pos.toNat) : (s.setDigit pos mask).digitMask d = s.digitMask d := by
  unfold State.digitMask
  rw [setDigit_cfg]
  cases ht : s.cfg.topo with
  | seg16 => simp only [getRow_setDigit_other_bit ht hw mask _ hd]
  | seg7 =>
    have row : Memory.read (s.setDigit pos mask).buf d = Memory.read s.buf d := by
      rw [read_setDigit_seg7 ht hw, if_neg (fun h => hd h.2)]
    simp only [getRow_congr (setDigit_cfg s pos mask) row]

/-! ## A PUTC at the command port (R71, R120) -/

theorem decode_encode_putc (pos chr : Byte) : decode (encode (.putc pos chr)) = .ok (.putc pos chr) := by
  simp [decode, encode, decodeWord, chrField]

/-- With the port free, the PUTC presented next is looked up and written in one step. -/
theorem step_putc {s : State} {pos chr : Byte} {rest : List PortItem} (he : s.emitting = none)
    (hp : s.pending = encode (.putc pos chr) :: rest) :
    step s = .next ((State.lookupChar chr { s with pending := rest }).setDigit pos
      ((s.cfg.lookup chr).getD 0x0000#16)) := by
  rw [step_accept he hp, State.accept, decode_encode_putc]
  rfl

/-- That step takes the one item, leaves the port free, and shows at its own position only. -/
theorem step_putc_keeps {s : State} {pos chr : Byte} {rest : List PortItem} (hw : Memory.wf s.buf)
    (he : s.emitting = none) (hp : s.pending = encode (.putc pos chr) :: rest) :
    ∃ t : State, step s = .next t ∧ t.cfg = s.cfg ∧ Memory.wf t.buf ∧ t.emitting = none ∧ t.pending = rest ∧
      ∀ d, d ≠ pos.toNat → t.digitMask d = s.digitMask d := by
  let found := State.lookupChar chr { s with pending := rest }
  exact ⟨_, step_putc he hp, by simp, setDigit_wf (s := found) hw pos _, by simpa using he, by simp,
    fun d hd => digitMask_setDigit_other (s := found) hw _ hd⟩

/-! ## display_string (R172, R173) -/

/-- A legal display has fewer positions than the operand field of PUTC has values (R10 to R12). -/
theorem posCount_lt_of_wf {c : Config} (h : c.Wf) : c.posCount < 256 := by
  obtain ⟨⟨-, hdigits⟩, -, hrows7⟩ := h
  cases ht : c.topo with
  | seg16 => rw [posCount_seg16 ht]; omega
  | seg7 => simp only [Config.posCount, ht, rowCount_seg7 ht]; omega

theorem displayString_cons_fits {c : Config} {start : Nat} (h : start < c.posCount) (chr : Byte) (rest : List Byte) :
    displayString c start (chr :: rest) =
      .putc (BitVec.ofNat 8 start) chr :: displayString c (start + 1) rest := by
  rw [displayString, if_pos h]

theorem displayString_cons_past {c : Config} {start : Nat} (h : c.posCount ≤ start) (chr : Byte) (rest : List Byte) :
    displayString c start (chr :: rest) = displayString c (start + 1) rest := by
  rw [displayString, if_neg (by omega)]

/-- The machine that runs a display_string works off all of it, one step a command, and leaves every position that the
text does not reach as it was. -/
theorem run_displayString (text : List Byte) {start d : Nat} (hd : d < start ∨ start + text.length ≤ d) {s : State}
    (hP : s.cfg.posCount < 256) (hw : Memory.wf s.buf) (he : s.emitting = none)
    (hp : s.pending = (displayString s.cfg start text).map encode) :
    ∃ t : State, Sys2Proof.core.run (displayString s.cfg start text).length s = .next t ∧ t.pending = [] ∧
      t.digitMask d = s.digitMask d := by
  induction text generalizing start s with
  | nil => exact ⟨s, run_zero s, hp, rfl⟩
  | cons chr rest ih =>
    have hd' : d < start + 1 ∨ start + 1 + rest.length ≤ d := by rw [List.length_cons] at hd; omega
    by_cases hfits : start < s.cfg.posCount
    · have operand : (BitVec.ofNat 8 start).toNat = start := Nat.mod_eq_of_lt (hfits.trans hP)
      have other : d ≠ (BitVec.ofNat 8 start).toNat := by rw [operand]; rw [List.length_cons] at hd; omega
      rw [displayString_cons_fits hfits] at hp ⊢
      obtain ⟨u, hstep, hcfg, hwu, heu, hpu, hkeep⟩ := step_putc_keeps hw he hp
      rw [← hcfg] at hP hpu ⊢
      obtain ⟨t, hrun, hdone, hmask⟩ := ih hd' hP hwu heu hpu
      exact ⟨t, (run_of_next hstep _).trans hrun, hdone, hmask.trans (hkeep d other)⟩
    · rw [displayString_cons_past (by omega)] at hp ⊢
      exact ih hd' hP hw he hp

/-- Settles O53: the expansions follow the text as far as the positions go; position 5 is kept because the five
characters from position 0 do not reach it (`run_displayString`). -/
theorem displayStringHello : Obligations.DisplayStringHello := by
  unfold Obligations.DisplayStringHello
  have onSix : ∀ c : Config, c.posCount = 6 →
      displayString c 0 [0x48#8, 0x45#8, 0x4C#8, 0x4C#8, 0x4F#8] =
        [.putc 0#8 0x48#8, .putc 1#8 0x45#8, .putc 2#8 0x4C#8, .putc 3#8 0x4C#8, .putc 4#8 0x4F#8] := by
    intro c hP
    simp [displayString, hP]
  refine ⟨onSix, fun s hinv hP he hp => ?_, fun c hP => by simp [displayString, hP]⟩
  have run := run_displayString (start := 0) (d := 5) [0x48#8, 0x45#8, 0x4C#8, 0x4C#8, 0x4F#8] (.inr le_rfl)
    (posCount_lt_of_wf hinv.cfg_wf) hinv.buf_wf he hp
  rwa [onSix s.cfg hP] at run

/-! ## The columns of display_number (R175) -/

theorem numberGlyph_digit {value : Int} {width col : Nat} (h : width - 1 - col < numDigits value.natAbs) :
    numberGlyph value false width col = .digit (decimalDigit value.natAbs (width - 1 - col)) := by
  simp [numberGlyph, h]

/-- Without leading zeros the sign stands one column left of the most significant digit. -/
theorem numberGlyph_sign {value : Int} (hneg : value < 0) {width col : Nat}
    (h : width - 1 - col = numDigits value.natAbs) : numberGlyph value false width col = .minus := by
  simp [numberGlyph, h, hneg]

theorem numberGlyph_blank {value : Int} {width col : Nat} (h : numDigits value.natAbs < width - 1 - col) :
    numberGlyph value false width col = .blank := by
  simp [numberGlyph, h.not_gt, h.ne']

/-- With leading zeros the sign stands in the leftmost column. -/
theorem numberGlyph_zeros_sign {value : Int} (hneg : value < 0) (width : Nat) :
    numberGlyph value true width 0 = .minus := by
  simp [numberGlyph, hneg]

theorem numberGlyph_zeros_digit {value : Int} {width col : Nat} (h : ¬ (value < 0 ∧ col = 0)) :
    numberGlyph value true width col = .digit (decimalDigit value.natAbs (width - 1 - col)) := by
  rw [numberGlyph, if_pos rfl, if_neg h]

theorem decimalDigit_of_lt {mag j : Nat} (h : mag < 10 ^ j) : decimalDigit mag j = 0 := by
  rw [decimalDigit, Nat.div_eq_of_lt h]

/-- Arguments that R174 admits give one command a column. -/
theorem displayNumber_eq (c : Config) {start : Nat} {value : Int} (leadingZeros : Bool) {width : Nat}
    (hlow : -32768 ≤ value) (hhigh : value ≤ 32767) (hwidth : 1 ≤ width) (hend : start + width - 1 ≤ 255) :
    displayNumber c start value leadingZeros width =
      some ((List.range width).map
        (fun col => glyphCommand c (start + col) (numberGlyph value leadingZeros width col))) := by
  have admitted : displayNumberArgsWf start value width = true := by
    simp [displayNumberArgsWf, hlow, hhigh, hwidth]; omega
  rw [displayNumber, if_pos admitted]

/-! ## The source's properties (R176) -/

/-- -5 without leading zeros: blanks, the sign, the digit. -/
theorem displayNumber_neg_five (c : Config) {start : Nat} (n : Nat) (hend : start + (n + 2) - 1 ≤ 255) :
    displayNumber c start (-5) false (n + 2) =
      some ((List.range n).map (fun col => .setdig (BitVec.ofNat 8 (start + col)) 0#16) ++
        [.setdig (BitVec.ofNat 8 (start + n)) c.minusMask, .putc (BitVec.ofNat 8 (start + (n + 1))) 0x35#8]) := by
  have oneDigit : numDigits (Int.natAbs (-5)) = 1 := by decide
  have blanks : ∀ col ∈ List.range n, glyphCommand c (start + col) (numberGlyph (-5) false (n + 2) col) =
      .setdig (BitVec.ofNat 8 (start + col)) 0#16 := by
    intro col hcol
    have hcol : col < n := List.mem_range.1 hcol
    rw [numberGlyph_blank (by rw [oneDigit]; omega), glyphCommand]
  have sign : numberGlyph (-5) false (n + 2) n = .minus :=
    numberGlyph_sign (by decide) (by rw [oneDigit]; omega)
  have last : numberGlyph (-5) false (n + 2) (n + 1) = .digit 5 := by
    rw [numberGlyph_digit (by rw [oneDigit]; omega), show n + 2 - 1 - (n + 1) = 0 by omega]; rfl
  rw [displayNumber_eq c false (by decide) (by decide) (by omega) hend, List.range_succ, List.range_succ]
  simp only [List.map_append, List.map_cons, List.map_nil, List.append_assoc, List.cons_append, List.nil_append,
    sign, last, List.map_congr_left blanks]
  rfl

/-- -5 with leading zeros: the sign, zeros, the digit. -/
theorem displayNumber_neg_five_zeros (c : Config) {start : Nat} (n : Nat) (hend : start + (n + 2) - 1 ≤ 255) :
    displayNumber c start (-5) true (n + 2) =
      some (.setdig (BitVec.ofNat 8 start) c.minusMask ::
        (List.range n).map (fun col => .putc (BitVec.ofNat 8 (start + (col + 1))) 0x30#8) ++
        [.putc (BitVec.ofNat 8 (start + (n + 1))) 0x35#8]) := by
  have sign : numberGlyph (-5) true (n + 2) 0 = .minus := numberGlyph_zeros_sign (by decide) _
  have zeros : ∀ col ∈ List.range n, glyphCommand c (start + (col + 1)) (numberGlyph (-5) true (n + 2) (col + 1)) =
      .putc (BitVec.ofNat 8 (start + (col + 1))) 0x30#8 := by
    intro col hcol
    have hcol : col < n := List.mem_range.1 hcol
    have high : Int.natAbs (-5) < 10 ^ (n + 2 - 1 - (col + 1)) :=
      (by decide : Int.natAbs (-5) < 10).trans_le (Nat.le_self_pow (by omega) 10)
    rw [numberGlyph_zeros_digit (by omega), decimalDigit_of_lt high, glyphCommand]
  have last : numberGlyph (-5) true (n + 2) (n + 1) = .digit 5 := by
    rw [numberGlyph_zeros_digit (by omega), show n + 2 - 1 - (n + 1) = 0 by omega]; rfl
  rw [displayNumber_eq c true (by decide) (by decide) (by omega) hend, List.range_succ, List.range_succ_eq_map]
  simp only [List.map_append, List.map_cons, List.map_nil, List.map_map, sign, last, Function.comp_def,
    List.map_congr_left zeros]
  rfl

/-- Settles O55: -5 column by column at every width from 2 (`displayNumber_neg_five`, `displayNumber_neg_five_zeros`); the
fields of two and four columns are its cases `n = 0` and `n = 2`. 0 and 42 are their columns, computed. -/
theorem displayNumberProperties : Obligations.DisplayNumberProperties := by
  unfold Obligations.DisplayNumberProperties
  intro c start
  refine ⟨fun h => ?_, fun h => displayNumber_neg_five c 0 h, fun h => displayNumber_neg_five c 2 h,
    fun h => displayNumber_neg_five_zeros c 2 h, fun width hwidth hend => ?_, rfl⟩
  · exact displayNumber_eq c false (by decide) (by decide) le_rfl h
  · obtain ⟨n, rfl⟩ := Nat.exists_eq_add_of_le' hwidth
    exact ⟨displayNumber_neg_five c n hend, displayNumber_neg_five_zeros c n hend⟩

end Sys2Proof.Machine
end

section
/-! PROOFS. The decoder, the encoder and the assembler (30_encoding.md R70 to R84). -/

namespace Sys2Proof

/-! ## Controller command bytes (R80 to R83) -/

/-- A byte is its two family bits and its six low bits. -/
theorem family_append_low (k : Byte) : k.extractLsb' 6 2 ++ k.setWidth 6 = k := by
  apply BitVec.eq_of_getLsbD_eq
  intro i hi
  rw [BitVec.getLsbD_append]
  by_cases hlow : i < 6
  · simp [hlow]
  · simp [hlow, show i - 6 < 2 by omega, show 6 + (i - 6) = i by omega]

/-- A display-control byte is its family, its undescribed bits, the power bit and the brightness (R81). -/
theorem family_append_dispctl (k : Byte) :
    k.extractLsb' 6 2 ++ k.extractLsb' 4 2 ++ BitVec.ofBool (k.getLsbD 3) ++ k.setWidth 3 = k := by
  apply BitVec.eq_of_getLsbD_eq
  intro i hi
  simp only [BitVec.getLsbD_append]
  interval_cases i <;> simp

theorem low_of_append (x : BitVec 2) (u : BitVec 6) : (x ++ u : Byte).setWidth 6 = u := BitVec.setWidth_append_eq_right

theorem decodeByte_modeByte (u : BitVec 6) : decodeByte (modeByte u) = .kMode u := by
  simp [decodeByte, modeByte, Laws.TableRow.family_of_append, low_of_append]

theorem decodeByte_addrByte (u : BitVec 6) : decodeByte (addrByte u) = .kAddr u := by
  simp [decodeByte, addrByte, Laws.TableRow.family_of_append, low_of_append]

theorem decodeByte_reservedByte (u : BitVec 6) : decodeByte (reservedByte u) = .kReserved u := by
  simp [decodeByte, reservedByte, Laws.TableRow.family_of_append, low_of_append]

theorem dispctlByte_family (u : BitVec 2) (pwr : Bool) (brt : BitVec 3) :
    (dispctlByte u pwr brt).extractLsb' 6 2 = 0b10#2 :=
  Sum.inr.inj (Laws.TableRow.kDispctl u pwr brt)

theorem decodeByte_dispctlByte (u : BitVec 2) (pwr : Bool) (brt : BitVec 3) :
    decodeByte (dispctlByte u pwr brt) = .kDispctl u pwr brt := by
  have undescribed : (dispctlByte u pwr brt).extractLsb' 4 2 = u := by
    apply BitVec.eq_of_getLsbD_eq
    intro i hi
    simp only [dispctlByte, BitVec.getLsbD_extractLsb', BitVec.getLsbD_append]
    simp [hi, show ¬ 4 + i < 3 by omega, show ¬ 4 + i - 3 < 1 by omega, show 4 + i - 3 - 1 = i by omega]
  have power : (dispctlByte u pwr brt).getLsbD 3 = pwr := by
    simp only [dispctlByte, BitVec.getLsbD_append]
    simp
  have brightness : (dispctlByte u pwr brt).setWidth 3 = brt := BitVec.setWidth_append_eq_right
  simp only [decodeByte, dispctlByte_family, undescribed, power, brightness]
  rfl

/-! ## Decode of encode -/

/-- Settles O2: each word's fields are read back (`opField_commandWord` and its companions), each byte by its family. -/
theorem decodeOfEncodeIsIdentity : Obligations.DecodeOfEncodeIsIdentity := by
  unfold Obligations.DecodeOfEncodeIsIdentity
  intro i
  cases i with
  | kMode u => exact congrArg Except.ok (decodeByte_modeByte u)
  | kDispctl u pwr brt => exact congrArg Except.ok (decodeByte_dispctlByte u pwr brt)
  | kAddr u => exact congrArg Except.ok (decodeByte_addrByte u)
  | kReserved u => exact congrArg Except.ok (decodeByte_reservedByte u)
  | lookup chr => simp [encode, decode, decodeWord, chrField]
  | setdig pos mask => simp [encode, decode, decodeWord]
  | getrow row => simp [encode, decode, decodeWord]
  | putc pos chr => exact Machine.decode_encode_putc pos chr
  | clr => rfl
  | flush => rfl
  | cmd byte => simp [encode, decode, decodeWord]
  | setbrt level => simp [encode, decode, decodeWord]
  | setpwr on => cases on <;> rfl

/-- No two instructions have the same encoding. -/
theorem encode_injective {i j : Instr} (h : encode i = encode j) : i = j := by
  have : Except.ok i = (Except.ok j : Except Undecodable Instr) := by
    rw [← decodeOfEncodeIsIdentity i, h, decodeOfEncodeIsIdentity j]
  exact Except.ok.inj this

/-- A byte read by its family is built again from the same bits. -/
theorem encode_decodeByte (k : Byte) : encode (decodeByte k) = .byte k := by
  simp only [decodeByte]
  split
  · rename_i hmode
    rw [encode, modeByte, ← hmode, family_append_low]
  · split
    · rename_i hdispctl
      rw [encode, dispctlByte, ← hdispctl, family_append_dispctl]
    · split
      · rename_i haddr
        rw [encode, addrByte, ← haddr, family_append_low]
      · rename_i hmode hdispctl haddr
        have hreserved : k.extractLsb' 6 2 = 0b00#2 := by
          revert hmode hdispctl haddr
          generalize k.extractLsb' 6 2 = family
          revert family
          decide
        rw [encode, reservedByte, ← hreserved, family_append_low]

/-- Settles O5: a byte has a family by definition, and encoding it puts its bits together again. -/
theorem controllerByteKeepsAllItsBits : Obligations.ControllerByteKeepsAllItsBits := by
  unfold Obligations.ControllerByteKeepsAllItsBits
  exact fun k => ⟨rfl, encode_decodeByte k⟩

/-- Settles O1: fifteen concrete words, read. -/
theorem tableWordsDecodeToTheirRows : Obligations.TableWordsDecodeToTheirRows := by
  unfold Obligations.TableWordsDecodeToTheirRows
  decide

/-! ## Decoding a command word (R71, R73, R77) -/

/-- Settles O3: `decodeWord` compares the opcode with 1 to 9 in turn. -/
theorem wordDecodesExactlyForTheNineOpcodes : Obligations.WordDecodesExactlyForTheNineOpcodes := by
  unfold Obligations.WordDecodesExactlyForTheNineOpcodes
  intro cw
  unfold decodeWord
  generalize opField cw = op
  refine ⟨fun ⟨hlow, hhigh⟩ => ?_, fun hother => ?_⟩
  · obtain ⟨n, hn, rfl⟩ : ∃ n, n = op.toNat ∧ op = BitVec.ofNat 8 n := ⟨_, rfl, by simp⟩
    rw [← hn] at hlow hhigh
    interval_cases n <;> exact ⟨_, rfl⟩
  · have differs : ∀ k : Byte, 1 ≤ k.toNat ∧ k.toNat ≤ 9 → op ≠ k := fun k hk h => hother (h ▸ hk)
    simp [differs 0x01#8, differs 0x02#8, differs 0x03#8, differs 0x04#8, differs 0x05#8, differs 0x06#8,
      differs 0x07#8, differs 0x08#8, differs 0x09#8]

/-- A mask on a command word is a mask on each of its fields. -/
theorem commandWord_and (op a mop ma : Byte) (b mb : Mask) :
    commandWord op a b &&& commandWord mop ma mb = commandWord (op &&& mop) (a &&& ma) (b &&& mb) := by
  rw [commandWord, commandWord, commandWord]
  exact (BitVec.and_append (x₁ := op ++ a)).trans (congrArg (· ++ _) BitVec.and_append)

/-- What a decoded word is: one of the nine commands, with the operand fields it reads (R71). -/
theorem decodeWord_cases {cw : Word} {i : Instr} (h : decodeWord cw = .ok i) :
    (opField cw = 0x01#8 ∧ i = .lookup (chrField cw)) ∨
    (opField cw = 0x02#8 ∧ i = .setdig (aField cw) (bField cw)) ∨
    (opField cw = 0x03#8 ∧ i = .getrow (aField cw)) ∨
    (opField cw = 0x04#8 ∧ i = .putc (aField cw) (chrField cw)) ∨
    (opField cw = 0x05#8 ∧ i = .clr) ∨
    (opField cw = 0x06#8 ∧ i = .flush) ∨
    (opField cw = 0x07#8 ∧ i = .cmd (aField cw)) ∨
    (opField cw = 0x08#8 ∧ i = .setbrt ((aField cw).setWidth 3)) ∨
    (opField cw = 0x09#8 ∧ i = .setpwr ((aField cw).getLsbD 0)) := by
  unfold decodeWord at h
  dsimp only at h
  rcases ite_eq_iff.1 h with ⟨hop, hi⟩ | ⟨-, h⟩
  · cases hi; exact .inl ⟨hop, rfl⟩
  rcases ite_eq_iff.1 h with ⟨hop, hi⟩ | ⟨-, h⟩
  · cases hi; exact .inr (.inl ⟨hop, rfl⟩)
  rcases ite_eq_iff.1 h with ⟨hop, hi⟩ | ⟨-, h⟩
  · cases hi; exact .inr (.inr (.inl ⟨hop, rfl⟩))
  rcases ite_eq_iff.1 h with ⟨hop, hi⟩ | ⟨-, h⟩
  · cases hi; exact .inr (.inr (.inr (.inl ⟨hop, rfl⟩)))
  rcases ite_eq_iff.1 h with ⟨hop, hi⟩ | ⟨-, h⟩
  · cases hi; exact .inr (.inr (.inr (.inr (.inl ⟨hop, rfl⟩))))
  rcases ite_eq_iff.1 h with ⟨hop, hi⟩ | ⟨-, h⟩
  · cases hi; exact .inr (.inr (.inr (.inr (.inr (.inl ⟨hop, rfl⟩)))))
  rcases ite_eq_iff.1 h with ⟨hop, hi⟩ | ⟨-, h⟩
  · cases hi; exact .inr (.inr (.inr (.inr (.inr (.inr (.inl ⟨hop, rfl⟩))))))
  rcases ite_eq_iff.1 h with ⟨hop, hi⟩ | ⟨-, h⟩
  · cases hi; exact .inr (.inr (.inr (.inr (.inr (.inr (.inr (.inl ⟨hop, rfl⟩)))))))
  rcases ite_eq_iff.1 h with ⟨hop, hi⟩ | ⟨-, h⟩
  · cases hi; exact .inr (.inr (.inr (.inr (.inr (.inr (.inr (.inr ⟨hop, rfl⟩)))))))
  cases h

/-- Cutting a value to its low `k` bits and widening it again clears the bits above. -/
theorem setWidth_setWidth_low {w : Nat} (k : Nat) (x : BitVec w) :
    (x.setWidth k).setWidth w = x &&& BitVec.ofNat w (2 ^ k - 1) := by
  apply BitVec.eq_of_getLsbD_eq
  intro i hi
  simp only [BitVec.getLsbD_setWidth, BitVec.getLsbD_and, BitVec.getLsbD_ofNat, Nat.testBit_two_pow_sub_one, hi,
    decide_true, Bool.true_and, Bool.and_comm]

/-- The low byte of `B` alone, as LOOKUP and PUTC read it. -/
theorem chr_of_b (b : Mask) : ((b.setWidth 8 : Byte).setWidth 16 : Mask) = b &&& 0x00FF#16 :=
  setWidth_setWidth_low 8 b

/-- The low three bits of `A` alone, as SETBRT reads them. -/
theorem level_of_a (a : Byte) : ((a.setWidth 3 : BitVec 3).setWidth 8 : Byte) = a &&& 0x07#8 :=
  setWidth_setWidth_low 3 a

/-- Bit 0 of `A` alone, as SETPWR reads it. -/
theorem on_of_a (a : Byte) : ((BitVec.ofBool (a.getLsbD 0)).setWidth 8 : Byte) = a &&& 0x01#8 := by
  rw [← BitVec.setWidth_one]
  exact setWidth_setWidth_low 1 a

/-- The bits a command reads, field by field: its opcode, and the masks `ma` of `A` and `mb` of `B`. -/
theorem and_readBits {cw : Word} {op ma : Byte} {mb : Mask} (hop : opField cw = op)
    (hread : readBits op = commandWord 0xFF#8 ma mb) :
    cw &&& readBits (opField cw) = commandWord op (aField cw &&& ma) (bField cw &&& mb) := by
  calc cw &&& readBits (opField cw)
      = commandWord op (aField cw) (bField cw) &&& commandWord 0xFF#8 ma mb := by
        rw [hop, hread, ← hop, commandWord_fields]
    _ = commandWord op (aField cw &&& ma) (bField cw &&& mb) := by
        rw [commandWord_and, show (0xFF#8 : Byte) = BitVec.allOnes 8 from rfl, BitVec.and_allOnes]

theorem readBits_lookup : readBits 0x01#8 = commandWord 0xFF#8 0#8 0x00FF#16 := rfl
theorem readBits_setdig : readBits 0x02#8 = commandWord 0xFF#8 (BitVec.allOnes 8) (BitVec.allOnes 16) := rfl
theorem readBits_getrow : readBits 0x03#8 = commandWord 0xFF#8 (BitVec.allOnes 8) 0#16 := rfl
theorem readBits_putc : readBits 0x04#8 = commandWord 0xFF#8 (BitVec.allOnes 8) 0x00FF#16 := rfl
theorem readBits_clr : readBits 0x05#8 = commandWord 0xFF#8 0#8 0#16 := rfl
theorem readBits_flush : readBits 0x06#8 = commandWord 0xFF#8 0#8 0#16 := rfl
theorem readBits_cmd : readBits 0x07#8 = commandWord 0xFF#8 (BitVec.allOnes 8) 0#16 := rfl
theorem readBits_setbrt : readBits 0x08#8 = commandWord 0xFF#8 0x07#8 0#16 := rfl
theorem readBits_setpwr : readBits 0x09#8 = commandWord 0xFF#8 0x01#8 0#16 := rfl

/-- Encoding a decoded word clears the bits its opcode does not read (R73). -/
theorem encode_of_decodeWord {cw : Word} {i : Instr} (h : decodeWord cw = .ok i) :
    encode i = .word (cw &&& readBits (opField cw)) := by
  rcases decodeWord_cases h with ⟨hop, rfl⟩ | ⟨hop, rfl⟩ | ⟨hop, rfl⟩ | ⟨hop, rfl⟩ | ⟨hop, rfl⟩ | ⟨hop, rfl⟩ |
    ⟨hop, rfl⟩ | ⟨hop, rfl⟩ | ⟨hop, rfl⟩
  · simp only [encode, chrField, chr_of_b, and_readBits hop readBits_lookup, BitVec.and_zero]
  · simp only [encode, and_readBits hop readBits_setdig, BitVec.and_allOnes]
  · simp only [encode, and_readBits hop readBits_getrow, BitVec.and_allOnes, BitVec.and_zero]
  · simp only [encode, chrField, chr_of_b, and_readBits hop readBits_putc, BitVec.and_allOnes]
  · simp only [encode, and_readBits hop readBits_clr, BitVec.and_zero]
  · simp only [encode, and_readBits hop readBits_flush, BitVec.and_zero]
  · simp only [encode, and_readBits hop readBits_cmd, BitVec.and_allOnes, BitVec.and_zero]
  · simp only [encode, level_of_a, and_readBits hop readBits_setbrt, BitVec.and_zero]
  · simp only [encode, on_of_a, and_readBits hop readBits_setpwr, BitVec.and_zero]

/-- Settles O4: two decoded words are the same command exactly when their encodings, which are the words with their
ignored bits cleared, are the same (`encode_injective`). -/
theorem ignoredBitsAndOnlyThoseAreIgnored : Obligations.IgnoredBitsAndOnlyThoseAreIgnored := by
  unfold Obligations.IgnoredBitsAndOnlyThoseAreIgnored
  refine ⟨fun _ _ h => encode_of_decodeWord h, fun cw cw' i i' h h' => ?_⟩
  rw [← PortItem.word.injEq, ← encode_of_decodeWord h, ← encode_of_decodeWord h']
  exact ⟨congrArg encode, encode_injective⟩

/-! ## The assembler (R84) -/

/-- A command word built of fields that fit is the sum of the fields at their places. -/
theorem commandWord_ofNat {op a b : Nat} (hop : op < 256) (ha : a < 256) (hb : b < 65536) :
    commandWord (BitVec.ofNat 8 op) (BitVec.ofNat 8 a) (BitVec.ofNat 16 b) =
      BitVec.ofNat 32 (op * 2 ^ 24 + a * 2 ^ 16 + b) := by
  apply BitVec.eq_of_toNat_eq
  simp only [commandWord, BitVec.toNat_append, BitVec.toNat_ofNat]
  rw [Nat.mod_eq_of_lt hop, Nat.mod_eq_of_lt ha, Nat.mod_eq_of_lt hb, ← Nat.shiftLeft_add_eq_or_of_lt hb,
    ← Nat.shiftLeft_add_eq_or_of_lt ha]
  omega

/-- An assembled command whose word is built of fields that fit, the word written as a number. -/
theorem assembled_word {line : AsmCmd} {i : Instr} (hi : assemble line = some i) {op a b n : Nat}
    (hword : encode i = .word (commandWord (BitVec.ofNat 8 op) (BitVec.ofNat 8 a) (BitVec.ofNat 16 b)))
    (hop : op < 256) (ha : a < 256) (hb : b < 65536) (hn : op * 2 ^ 24 + a * 2 ^ 16 + b = n) :
    (assemble line).map encode = some (.word (BitVec.ofNat 32 n)) := by
  rw [hi, Option.map_some, hword, commandWord_ofNat hop ha hb, hn]

theorem assemble_of_not_wf {line : AsmCmd} (h : line.wf = false) : assemble line = none := by
  simp [assemble, h]

/-- Settles O6: an operand that fits is the number in its field (`assembled_word`), and `AsmCmd.wf` is false of any
other. -/
theorem assemblerWordsAndRefusals : Obligations.AssemblerWordsAndRefusals := by
  unfold Obligations.AssemblerWordsAndRefusals
  have chrWide (n : Nat) (h : n ≤ 255) : (BitVec.ofNat 8 n).setWidth 16 = BitVec.ofNat 16 n :=
    BitVec.setWidth_ofNat_of_le_of_lt (by decide) (Nat.lt_succ_of_le h)
  have levelWide (n : Nat) (h : n ≤ 7) : (BitVec.ofNat 3 n).setWidth 8 = BitVec.ofNat 8 n :=
    BitVec.setWidth_ofNat_of_le_of_lt (by decide) (Nat.lt_succ_of_le h)
  have onWide (n : Nat) (h : n ≤ 1) : (BitVec.ofBool (n == 1)).setWidth 8 = BitVec.ofNat 8 n := by
    interval_cases n <;> rfl
  refine ⟨fun chr h => ?_, fun pos mask hp hm => ?_, fun row h => ?_, fun pos chr hp hc => ?_, rfl, rfl,
    fun byte h => ?_, fun level h => ?_, fun on h => ?_,
    fun n m h => ?_, fun pos mask h => ?_, fun level h => ?_, fun on h => ?_⟩
  · exact assembled_word (i := .lookup (.ofNat 8 chr)) (op := 1) (a := 0) (b := chr)
      (by simp [assemble, AsmCmd.wf, h]) (by rw [encode, chrWide chr h]) (by omega) (by omega) (by omega) (by omega)
  · exact assembled_word (i := .setdig (.ofNat 8 pos) (.ofNat 16 mask)) (op := 2) (a := pos) (b := mask)
      (by simp [assemble, AsmCmd.wf, hp, hm]) rfl (by omega) (by omega) (by omega) rfl
  · exact assembled_word (i := .getrow (.ofNat 8 row)) (op := 3) (a := row) (b := 0)
      (by simp [assemble, AsmCmd.wf, h]) rfl (by omega) (by omega) (by omega) (Nat.add_zero _)
  · exact assembled_word (i := .putc (.ofNat 8 pos) (.ofNat 8 chr)) (op := 4) (a := pos) (b := chr)
      (by simp [assemble, AsmCmd.wf, hp, hc]) (by rw [encode, chrWide chr hc]) (by omega) (by omega) (by omega) rfl
  · exact assembled_word (i := .cmd (.ofNat 8 byte)) (op := 7) (a := byte) (b := 0)
      (by simp [assemble, AsmCmd.wf, h]) rfl (by omega) (by omega) (by omega) (Nat.add_zero _)
  · exact assembled_word (i := .setbrt (.ofNat 3 level)) (op := 8) (a := level) (b := 0)
      (by simp [assemble, AsmCmd.wf, h]) (by rw [encode, levelWide level h]) (by omega) (by omega) (by omega)
      (Nat.add_zero _)
  · exact assembled_word (i := .setpwr (on == 1)) (op := 9) (a := on) (b := 0)
      (by simp [assemble, AsmCmd.wf, h]) (by rw [encode, onWide on h]) (by omega) (by omega) (by omega) (Nat.add_zero _)
  · have tooBig : ¬ n ≤ 255 := by omega
    simp [assemble, AsmCmd.wf, tooBig]
  · exact assemble_of_not_wf (by simp [AsmCmd.wf]; omega)
  · exact assemble_of_not_wf (by simp [AsmCmd.wf]; omega)
  · exact assemble_of_not_wf (by simp [AsmCmd.wf]; omega)

end Sys2Proof
end

section
/-! PROOFS. The step: the command port, the undefined command, and a frame that waits on the link (10_state.md R31,
30_encoding.md R77, 60_exceptions.md R192). -/

namespace Sys2Proof.Machine

/-! ## The command port -/

theorem accept_of_ok {item : PortItem} {i : Instr} (h : decode item = .ok i) (s : State) :
    State.accept item s = exec i s := by
  rw [State.accept, h]

theorem accept_of_error {item : PortItem} {e : Undecodable} (h : decode item = .error e) (s : State) :
    State.accept item s = .next (undefinedCommand s) := by
  rw [State.accept, h]

/-- Settles O7: with the port free a step is `State.accept`, which runs what decodes. -/
theorem stepRunsTheDecodedCommand : Obligations.StepRunsTheDecodedCommand := by
  unfold Obligations.StepRunsTheDecodedCommand
  intro s item rest i hfree hnext hdecode
  rw [step_accept hfree hnext, accept_of_ok hdecode]

theorem decode_of_decodeTableWord {nbits w : Nat} {i : Instr} (h : decodeTableWord nbits w = some i) :
    decode (tableItem nbits w) = .ok i := by
  unfold decodeTableWord at h
  cases hd : decode (tableItem nbits w) with
  | ok j => rw [hd] at h; exact congrArg Except.ok (Option.some.inj h)
  | error e => rw [hd] at h; cases h

/-- Settles O8: the bits are the item in front of the host's sequence. -/
theorem fetchedTableWordIsExecuted : Obligations.FetchedTableWordIsExecuted := by
  unfold Obligations.FetchedTableWordIsExecuted
  intro s nbits w i h
  exact stepRunsTheDecodedCommand (s.withFetchWord nbits w) _ s.pending i rfl rfl (decode_of_decodeTableWord h)

/-- Settles O9: such a word does not decode (O3), so the step sets ILL. -/
theorem undefinedWordSetsIllAndNothingElse : Obligations.UndefinedWordSetsIllAndNothingElse := by
  unfold Obligations.UndefinedWordSetsIllAndNothingElse
  intro s cw rest hfree hnext hop
  have rejected : decode (.word cw) = .error (.undefinedOpcode (opField cw)) :=
    (wordDecodesExactlyForTheNineOpcodes cw).2 hop
  rw [step_accept hfree hnext, accept_of_error rejected]
  rfl

/-! ## A waiting frame -/

theorem offer_taken {s : State} {rest : List Bool} (h : s.linkTakes = true :: rest) (f : Frame) :
    s.offer f = { s with txlog := s.txlog ++ [f], linkTakes := rest, emitting := none } := by
  rw [State.offer, h]; rfl

theorem offer_refused {s : State} {rest : List Bool} (h : s.linkTakes = false :: rest) (f : Frame) :
    s.offer f = { s with linkTakes := rest, emitting := some f } := by
  rw [State.offer, h]

theorem offer_never {s : State} (h : s.linkTakes = []) (f : Frame) : s.offer f = { s with emitting := some f } := by
  rw [State.offer, h]

theorem poll_of_answer {s : State} {b : Bool} {rest : List Bool} (h : s.linkTakes = b :: rest) (f : Frame) :
    poll f s = .next (s.offer f) := by
  rw [poll, h]

theorem poll_never {s : State} (h : s.linkTakes = []) (f : Frame) : poll f s = .fault .busHang := by
  rw [poll, h]

/-- Settles O10: with a frame waiting a step is a poll, one case for each answer of the link. -/
theorem stalledPortOnlyAsksTheLink : Obligations.StalledPortOnlyAsksTheLink := by
  unfold Obligations.StalledPortOnlyAsksTheLink
  intro s f hwait
  rw [step_poll hwait]
  refine ⟨fun rest h => ?_, fun rest h => ?_, fun h => poll_never h f⟩
  · rw [poll_of_answer h, offer_taken h]
  · rw [poll_of_answer h, offer_refused h, ← hwait]

/-- Settles O34, by induction on the number of refusals: each uses one answer, and the frame waits on (O10). -/
theorem slowLinkTakesTheFrameInTheEnd : Obligations.SlowLinkTakesTheFrameInTheEnd := by
  unfold Obligations.SlowLinkTakesTheFrameInTheEnd
  intro s f n rest hwait htakes
  induction n generalizing s with
  | zero =>
    obtain ⟨taken, -, -⟩ := stalledPortOnlyAsksTheLink s f hwait
    exact run_of_next (taken rest htakes) 0
  | succ n ih =>
    obtain ⟨-, refused, -⟩ := stalledPortOnlyAsksTheLink s f hwait
    rw [run_of_next (refused (List.replicate n false ++ true :: rest) htakes)]
    exact ih _ hwait rfl

end Sys2Proof.Machine
end

section
/-! PROOFS. The frame encoder: what each command sends, and what becomes of the frame (42_frame_encoder.md R130 to R142,
43_link_serializer.md R150). -/

namespace Sys2Proof.Machine

/-! ## DISPCTL and its byte (R27, R81, R138, R140) -/

theorem dispctlWithBrt_low (d : BitVec 4) (level : BitVec 3) {i : Nat} (hi : i < 3) :
    (dispctlWithBrt d level).getLsbD i = level.getLsbD i := by
  unfold dispctlWithBrt
  interval_cases i <;> simp

theorem dispctlWithBrt_pwr (d : BitVec 4) (level : BitVec 3) :
    (dispctlWithBrt d level).getLsbD 3 = d.getLsbD 3 := by
  simp [dispctlWithBrt]

theorem dispctlWithPwr_low (d : BitVec 4) (on : Bool) {i : Nat} (hi : i < 3) :
    (dispctlWithPwr d on).getLsbD i = d.getLsbD i := by
  unfold dispctlWithPwr
  interval_cases i <;> cases on <;> simp

theorem dispctlWithPwr_pwr (d : BitVec 4) (on : Bool) : (dispctlWithPwr d on).getLsbD 3 = on := by
  cases on <;> simp [dispctlWithPwr]

/-- Three low bits and the power bit are all of DISPCTL. -/
theorem dispctl_ext {d e : BitVec 4} (hlow : ∀ i < 3, d.getLsbD i = e.getLsbD i)
    (hpwr : d.getLsbD 3 = e.getLsbD 3) : d = e := by
  apply BitVec.eq_of_getLsbD_eq
  intro i hi
  rcases Nat.lt_succ_iff_lt_or_eq.1 hi with hi | rfl
  · exact hlow i hi
  · exact hpwr

/-- The low bits as a slice. -/
theorem extractLow_eq_iff {w : Nat} {d : BitVec w} {l : BitVec 3} :
    d.extractLsb' 0 3 = l ↔ ∀ i < 3, d.getLsbD i = l.getLsbD i := by
  refine ⟨fun h i hi => ?_, fun h => BitVec.eq_of_getLsbD_eq fun i hi => ?_⟩
  · rw [← h]; simp [hi]
  · rw [← h i hi]; simp [hi]

theorem controlByte_eq (d : BitVec 4) : controlByte d = 0b1000#4 ++ d := by
  apply BitVec.eq_of_getLsbD_eq
  intro i hi
  rw [BitVec.getLsbD_append]
  interval_cases i <;> simp [controlByte, ctrlBase]

/-! ## `Emits` is what the commands send -/

theorem sends_of_emits {s : State} {i : Instr} {f : Frame} {d : BitVec 4} (h : Emits s i f d) :
    sends s i = some (f, d) := by
  cases h with
  | setbrt level d hl hp =>
    obtain rfl : dispctlWithBrt s.dispctl level = d :=
      dispctl_ext (fun i hi => (dispctlWithBrt_low _ _ hi).trans (hl i hi).symm)
        ((dispctlWithBrt_pwr _ _).trans hp.symm)
    rw [sends, controlByte_eq]
  | setpwr on d hp hl =>
    obtain rfl : dispctlWithPwr s.dispctl on = d :=
      dispctl_ext (fun i hi => (dispctlWithPwr_low _ _ hi).trans (hl i hi).symm)
        ((dispctlWithPwr_pwr _ _).trans hp.symm)
    rw [sends, controlByte_eq]
  | flush => rfl
  | cmd byte => rfl
  | kMode u => rfl
  | kDispctl u pwr brt => rfl
  | kAddr u => rfl
  | kReserved u => rfl

theorem emits_of_sends {s : State} {i : Instr} {f : Frame} {d : BitVec 4} (h : sends s i = some (f, d)) :
    Emits s i f d := by
  cases i <;> simp only [sends, Option.some.injEq, Prod.mk.injEq, reduceCtorEq] at h <;> obtain ⟨rfl, rfl⟩ := h
  case flush => exact .flush
  case cmd byte => exact .cmd byte
  case setbrt level =>
    rw [controlByte_eq]
    exact .setbrt level _ (fun _ hi => dispctlWithBrt_low _ _ hi) (dispctlWithBrt_pwr _ _)
  case setpwr on =>
    rw [controlByte_eq]
    exact .setpwr on _ (dispctlWithPwr_pwr _ _) (fun _ hi => dispctlWithPwr_low _ _ hi)
  case kMode u => exact .kMode u
  case kDispctl u pwr brt => exact .kDispctl u pwr brt
  case kAddr u => exact .kAddr u
  case kReserved u => exact .kReserved u

theorem exec_of_emits {s : State} {i : Instr} {f : Frame} {d : BitVec 4} (h : Emits s i f d) :
    exec i s = emit f { s with dispctl := d } :=
  exec_of_sends (sends_of_emits h)

/-! ## A frame taken at once (R30) -/

/-- Where the link takes a frame at once, `emit` delivers it. -/
theorem emit_delivered {s : State} (f : Frame) (h : s.linkReady) : ∃ t, emit f s = .next t ∧ Delivered s f t := by
  rcases h with ⟨hlink, hidle⟩ | ⟨hlink, htakes⟩
  · exact ⟨_, emit_serializer f hlink hidle, .inl ⟨hlink, rfl⟩⟩
  · obtain ⟨rest, hrest⟩ := List.head?_eq_some_iff.mp htakes
    exact ⟨_, emit_taken f hlink hrest, .inr ⟨hlink, rest, hrest, rfl⟩⟩

theorem exec_delivered {s : State} {i : Instr} {f : Frame} {d : BitVec 4} (hs : sends s i = some (f, d))
    (h : s.linkReady) : ∃ t, exec i s = .next t ∧ Delivered { s with dispctl := d } f t := by
  rw [exec_of_sends hs]
  exact emit_delivered (s := { s with dispctl := d }) f h

theorem delivered_frame {s t : State} {f : Frame} {d : BitVec 4} (h : Delivered { s with dispctl := d } f t) :
    t.txlog = s.txlog ++ [f] ∧ t.dispctl = d := by
  rcases h with ⟨-, rfl⟩ | ⟨-, rest, -, rfl⟩ <;> exact ⟨rfl, rfl⟩

/-- Settles O24: FLUSH sends `State.flushFrame` and leaves DISPCTL (`exec_delivered`). -/
theorem flushSendsEveryRow : Obligations.FlushSendsEveryRow := by
  unfold Obligations.FlushSendsEveryRow
  exact fun s h => exec_delivered rfl h

/-- Settles O25: CMD sends its byte and leaves DISPCTL (`exec_delivered`). -/
theorem cmdSendsItsByteUnchecked : Obligations.CmdSendsItsByteUnchecked := by
  unfold Obligations.CmdSendsItsByteUnchecked
  exact fun s byte h => exec_delivered rfl h

/-- Settles O26: the byte of the new DISPCTL is `controlByte_eq`. -/
theorem setbrtSendsTheLevel : Obligations.SetbrtSendsTheLevel := by
  unfold Obligations.SetbrtSendsTheLevel
  intro s level h
  obtain ⟨t, hexec, hsent⟩ := exec_delivered (i := .setbrt level) rfl h
  rw [controlByte_eq] at hsent
  exact ⟨_, t, extractLow_eq_iff.2 fun _ hi => dispctlWithBrt_low _ _ hi, dispctlWithBrt_pwr _ _, hexec, hsent⟩

/-- Settles O27: the byte of the new DISPCTL is `controlByte_eq`. -/
theorem setpwrSendsThePower : Obligations.SetpwrSendsThePower := by
  unfold Obligations.SetpwrSendsThePower
  intro s on h
  obtain ⟨t, hexec, hsent⟩ := exec_delivered (i := .setpwr on) rfl h
  rw [controlByte_eq] at hsent
  have low : (dispctlWithPwr s.dispctl on).extractLsb' 0 3 = s.dispctl.extractLsb' 0 3 :=
    extractLow_eq_iff.2 fun i hi => (dispctlWithPwr_low _ _ hi).trans (extractLow_eq_iff.1 rfl i hi)
  exact ⟨_, t, dispctlWithPwr_pwr _ _, low, hexec, hsent⟩

/-- Settles O28: each K row sends its byte and leaves DISPCTL (`exec_delivered`). -/
theorem controllerBytesAreSentAsFrames : Obligations.ControllerBytesAreSentAsFrames := by
  unfold Obligations.ControllerBytesAreSentAsFrames
  exact fun s h => ⟨fun u => exec_delivered rfl h, fun u pwr brt => exec_delivered rfl h,
    fun u => exec_delivered rfl h, fun u => exec_delivered rfl h⟩

/-! ## Which commands send (R142) -/

theorem sends_eq_none_iff {s : State} {i : Instr} : sends s i = none ↔
    (∃ c, i = .lookup c) ∨ (∃ p m, i = .setdig p m) ∨ (∃ r, i = .getrow r) ∨ (∃ p c, i = .putc p c) ∨ i = .clr := by
  cases i <;> simp [sends]

/-- A command that sends nothing always completes. -/
theorem exec_of_sends_none {s : State} {i : Instr} (h : sends s i = none) : ∃ t, exec i s = .next t := by
  rcases sends_eq_none_iff.1 h with ⟨c, rfl⟩ | ⟨p, m, rfl⟩ | ⟨r, rfl⟩ | ⟨p, c, rfl⟩ | rfl <;> exact ⟨_, rfl⟩

/-- Settles O29: `sends` gives a command no frame or exactly one, and `Emits` is its graph. -/
theorem everyEmitterHasOneFrame : Obligations.EveryEmitterHasOneFrame := by
  unfold Obligations.EveryEmitterHasOneFrame
  intro s i hready
  cases hs : sends s i with
  | none =>
    obtain ⟨t, hexec⟩ := exec_of_sends_none hs
    obtain ⟨-, -, htx, -⟩ := exec_frame_of_sends_none hexec hs
    refine ⟨t, hexec, fun _ => ⟨htx, fun f d h => ?_⟩, fun h1 h2 h3 h4 h5 => ?_⟩
    · simp [sends_of_emits h] at hs
    · rcases sends_eq_none_iff.1 hs with ⟨c, e⟩ | ⟨p, m, e⟩ | ⟨r, e⟩ | ⟨p, c, e⟩ | e
      · exact absurd e (h1 c)
      · exact absurd e (h2 p m)
      · exact absurd e (h3 r)
      · exact absurd e (h4 p c)
      · exact absurd e h5
  | some fd =>
    obtain ⟨f, d⟩ := fd
    obtain ⟨t, hexec, hsent⟩ := exec_delivered hs hready
    refine ⟨t, hexec, fun quiet => ?_, fun _ _ _ _ _ => ⟨f, d, ?_, emits_of_sends hs, hsent, fun f' d' h => ?_⟩⟩
    · simp [sends_eq_none_iff.2 quiet] at hs
    · obtain ⟨htx, -⟩ := delivered_frame hsent
      exact htx
    · simpa [hs, eq_comm] using sends_of_emits h

/-! ## Two commands in a row -/

/-- Settles O31: CLR leaves the frame port alone and every row at 0, and a masked 0 is 0. -/
theorem flushAfterClrSendsZeros : Obligations.FlushAfterClrSendsZeros := by
  unfold Obligations.FlushAfterClrSendsZeros
  intro s hwf hready
  obtain ⟨u, hflush, hsent⟩ := exec_delivered (s := s.clearRows) (i := .flush) rfl hready
  obtain ⟨htx, -⟩ := delivered_frame hsent
  have zeros : (List.range s.cfg.rowCount).map (fun i => Memory.read s.clearRows.buf i &&& s.cfg.rowMask) =
      List.replicate s.cfg.rowCount 0#8 := by
    refine List.eq_replicate_iff.2 ⟨by simp, fun b hb => ?_⟩
    obtain ⟨i, hi, rfl⟩ := List.mem_map.1 hb
    rw [read_clearRows hwf, if_pos (List.mem_range.1 hi)]
    exact BitVec.zero_and
  exact ⟨s.clearRows, u, rfl, hflush, htx.trans (congrArg (fun rows => s.txlog ++ [0xC0#8 :: rows]) zeros)⟩

/-- A link that takes two frames at once takes one, and one more after it. -/
theorem linkReady_of_takesTwo {s : State}
    (h : s.cfg.link = .serializer ∧ s.periphBusy = false ∨ s.cfg.link = .external ∧ s.linkTakes.take 2 = [true, true]) :
    s.linkReady ∧ ∀ d f t, Delivered { s with dispctl := d } f t → t.linkReady := by
  rcases h with ⟨hlink, hidle⟩ | ⟨hlink, htakes⟩
  · refine ⟨.inl ⟨hlink, hidle⟩, fun d f t hsent => ?_⟩
    rcases hsent with ⟨-, rfl⟩ | ⟨hext, -⟩
    · exact .inl ⟨hlink, hidle⟩
    · exact absurd (hlink.symm.trans hext) (by decide)
  · obtain ⟨rest, hrest⟩ : ∃ rest, s.linkTakes = true :: true :: rest :=
      ⟨s.linkTakes.drop 2, by rw [← List.take_append_drop 2 s.linkTakes, htakes]; rfl⟩
    refine ⟨.inr ⟨hlink, by rw [hrest]; rfl⟩, fun d f t hsent => ?_⟩
    rcases hsent with ⟨hser, -⟩ | ⟨-, rest', hrest', rfl⟩
    · exact absurd (hlink.symm.trans hser) (by decide)
    · obtain ⟨-, rfl⟩ := List.cons.inj (hrest.symm.trans hrest')
      exact .inr ⟨hlink, rfl⟩

theorem dispctlWithPwr_off_on {d : BitVec 4} (hon : d.getLsbD 3 = true) :
    dispctlWithPwr (dispctlWithPwr d false) true = d :=
  dispctl_ext (fun _ hi => (dispctlWithPwr_low _ _ hi).trans (dispctlWithPwr_low _ _ hi))
    ((dispctlWithPwr_pwr _ _).trans hon.symm)

theorem dispctlWithBrt_back (d : BitVec 4) (level : BitVec 3) :
    dispctlWithBrt (dispctlWithBrt d level) (d.extractLsb' 0 3) = d :=
  dispctl_ext (fun i hi => (dispctlWithBrt_low _ _ hi).trans (extractLow_eq_iff.1 rfl i hi).symm)
    ((dispctlWithBrt_pwr _ _).trans (dispctlWithBrt_pwr _ _))

/-- Settles O32: the second command writes DISPCTL back (`dispctlWithPwr_off_on`, `dispctlWithBrt_back`), and each sends
the byte of its DISPCTL. -/
theorem powerCycleKeepsTheBrightness : Obligations.PowerCycleKeepsTheBrightness := by
  unfold Obligations.PowerCycleKeepsTheBrightness
  intro s h
  obtain ⟨hready, hagain⟩ := linkReady_of_takesTwo h
  refine ⟨fun hon => ?_, fun level => ?_⟩
  · obtain ⟨t, hoff, hsent⟩ := exec_delivered (i := .setpwr false) rfl hready
    obtain ⟨htx, hdt⟩ := delivered_frame hsent
    obtain ⟨u, hback, hsent'⟩ := exec_delivered (i := .setpwr true) rfl (hagain _ _ t hsent)
    rw [hdt, dispctlWithPwr_off_on hon] at hsent'
    obtain ⟨htx', hdu⟩ := delivered_frame hsent'
    exact ⟨t, u, hoff, hback, hdu, by rw [htx', htx, List.append_assoc]; rfl⟩
  · obtain ⟨t, hset, hsent⟩ := exec_delivered (i := .setbrt level) rfl hready
    obtain ⟨htx, hdt⟩ := delivered_frame hsent
    obtain ⟨u, hback, hsent'⟩ :=
      exec_delivered (i := .setbrt (s.dispctl.extractLsb' 0 3)) rfl (hagain _ _ t hsent)
    rw [hdt, dispctlWithBrt_back] at hsent'
    obtain ⟨htx', hdu⟩ := delivered_frame hsent'
    refine ⟨t, u, hset, hback, ?_, ?_, hdu, by rw [htx', htx, hdt, List.append_assoc]; rfl⟩
    · rw [hdt, dispctlWithBrt_pwr]
    · rw [hdt]; exact extractLow_eq_iff.2 fun _ hi => dispctlWithBrt_low _ _ hi

/-! ## A frame not taken, or not allowed (R192, R226) -/

/-- Settles O33: the answers of the link as O10 has them, DISPCTL written first. -/
theorem untakenFrameWaits : Obligations.UntakenFrameWaits := by
  unfold Obligations.UntakenFrameWaits
  intro s i f d hlink hemits
  have offered : exec i s = .next (State.offer f { s with dispctl := d }) := by
    rw [exec_of_emits hemits]; simp [emit, hlink]
  refine ⟨fun rest h => ?_, fun h => ⟨?_, ?_⟩⟩
  · rw [offered, offer_refused (s := { s with dispctl := d }) h]
  · rw [offered, offer_never (s := { s with dispctl := d }) h]
  · obtain ⟨-, -, stuck⟩ := stalledPortOnlyAsksTheLink { s with dispctl := d, emitting := some f } f rfl
    exact stuck h

/-- Settles O35: the command is an `emit`, which a busy peripheral refuses. -/
theorem busyPeripheralStopsEmitters : Obligations.BusyPeripheralStopsEmitters := by
  unfold Obligations.BusyPeripheralStopsEmitters
  intro s i f d hlink hbusy hemits
  rw [exec_of_emits hemits]
  simp [emit, hlink, hbusy]

/-! ## The length of a frame on the lines (R150) -/

theorem byteEvents_length (b : Byte) : (byteEvents b).length = 40 := rfl

theorem frameEvents_length (f : Frame) : (frameEvents f).length = 13 + 40 * f.length := by
  have bytes : (f.flatMap byteEvents).length = 40 * f.length := by
    simp [List.length_flatMap, byteEvents_length, Nat.mul_comm]
  simp [frameEvents, bytes]; omega

/-- Settles O36: the command is an `emit`, which adds the frame's events to the line log. -/
theorem frameTakes13Plus40NLineEvents : Obligations.FrameTakes13Plus40NLineEvents := by
  unfold Obligations.FrameTakes13Plus40NLineEvents
  intro s i f d hlink hidle hemits
  refine ⟨State.sent { s with dispctl := d } f, ?_, ?_, ?_⟩
  · exact (exec_of_emits hemits).trans (emit_serializer (s := { s with dispctl := d }) f hlink hidle)
  · rw [sent_linelog, List.length_append, frameEvents_length, Nat.add_assoc]
  · exact List.take_left

end Sys2Proof.Machine
end

section
/-! PROOFS. The line serializer and the receiver that checks it (43_link_serializer.md R150 to R161). -/

namespace Sys2Proof.Machine

/-! ## The receiver (R158) -/

theorem seeAll_append (r : Receiver) (es es' : List LineEvent) :
    r.seeAll (es ++ es') = (r.seeAll es).seeAll es' := List.foldl_append

/-- One bit inside a frame: `DIO` is sampled at the rise of `CLK` (R153). -/
theorem seeAll_bitEvents {r : Receiver} (hopen : r.inFrame = true) (b : Bool) :
    r.seeAll (bitEvents b) = { r with clk := true, dio := b, bits := r.bits ++ [b] } := by
  simp [Receiver.seeAll, Receiver.see, bitEvents, Receiver.onClk, Receiver.onDio, hopen]

/-- Bits inside a frame are sampled in order; only the level of `DIO` after them depends on the last. -/
theorem seeAll_flatMap_bitEvents (bs : List Bool) {r : Receiver} (hopen : r.inFrame = true) (hclk : r.clk = true) :
    ∃ dio, r.seeAll (bs.flatMap bitEvents) = { r with dio := dio, bits := r.bits ++ bs } := by
  induction bs generalizing r with
  | nil => exact ⟨r.dio, by simp [Receiver.seeAll]⟩
  | cons b bs ih =>
    obtain ⟨dio, h⟩ := ih (r := { r with clk := true, dio := b, bits := r.bits ++ [b] }) hopen rfl
    refine ⟨dio, ?_⟩
    rw [List.flatMap_cons, seeAll_append, seeAll_bitEvents hopen, h, hclk, List.append_assoc]
    rfl

/-- ACQUIRE and START begin a frame, whatever the levels before (R151, R152). -/
theorem seeAll_start {r : Receiver} (hclosed : r.inFrame = false) :
    r.seeAll (.mode .gpio :: startEvents) = { r with clk := true, dio := false, inFrame := true, bits := [] } := by
  simp [Receiver.seeAll, Receiver.see, startEvents, Receiver.onClk, Receiver.onDio, hclosed]

/-- STOP and RELEASE close the frame; the bit sampled inside STOP is dropped (R154, R155, R158). -/
theorem seeAll_stop {r : Receiver} (hopen : r.inFrame = true) :
    r.seeAll (stopEvents ++ [.mode .periph]) =
      { r with clk := true, dio := true, inFrame := false, bits := [], frames := r.frames ++ [groupBits r.bits] } := by
  simp [Receiver.seeAll, Receiver.see, stopEvents, Receiver.onClk, Receiver.onDio, hopen]

/-! ## The bits of a frame -/

/-- The bits of a byte in the order they are sent, bit 0 first (R153). -/
def byteBits (b : Byte) : List Bool := (List.range 8).map b.getLsbD

theorem byteEvents_eq (b : Byte) : byteEvents b = (byteBits b).flatMap bitEvents := rfl

theorem ofBoolListLE_bits (b : Byte) :
    BitVec.ofBoolListLE [b.getLsbD 0, b.getLsbD 1, b.getLsbD 2, b.getLsbD 3, b.getLsbD 4, b.getLsbD 5, b.getLsbD 6,
      b.getLsbD 7] = b := by
  apply BitVec.eq_of_getLsbD_eq
  intro i hi
  rw [BitVec.getLsbD_ofBoolListLE]
  simp at hi
  interval_cases i <;> rfl

theorem groupBits_byteBits_append (b : Byte) (bs : List Bool) : groupBits (byteBits b ++ bs) = b :: groupBits bs :=
  congrArg (· :: groupBits bs) (ofBoolListLE_bits b)

/-- Eight bits at a time, the bits of a frame are its bytes. -/
theorem groupBits_flatMap_byteBits (f : Frame) : groupBits (f.flatMap byteBits) = f := by
  induction f with
  | nil => rfl
  | cons b f ih => rw [List.flatMap_cons, groupBits_byteBits_append, ih]

/-- The events of a frame: the start, its bits, the stop (R150). -/
theorem frameEvents_eq (f : Frame) :
    frameEvents f = (.mode .gpio :: startEvents) ++ (f.flatMap byteBits).flatMap bitEvents ++
      (stopEvents ++ [.mode .periph]) := by
  rw [List.flatMap_assoc]
  rfl

/-- A receiver outside a frame that sees the events of a frame gets the frame and is outside a frame again. -/
theorem seeAll_frameEvents {r : Receiver} (hclosed : r.inFrame = false) (f : Frame) :
    r.seeAll (frameEvents f) =
      { clk := true, dio := true, inFrame := false, bits := [], frames := r.frames ++ [f] } := by
  obtain ⟨dio, hbits⟩ := seeAll_flatMap_bitEvents (f.flatMap byteBits)
    (r := { r with clk := true, dio := false, inFrame := true, bits := [] }) rfl rfl
  rw [frameEvents_eq, seeAll_append _ (_ ++ _), seeAll_append _ (_ :: _), seeAll_start hclosed, hbits, seeAll_stop rfl,
    List.nil_append, groupBits_flatMap_byteBits]

/-- Settles O38: a fresh receiver is outside a frame. -/
theorem receiveOfSerializeIsIdentity : Obligations.ReceiveOfSerializeIsIdentity := by
  unfold Obligations.ReceiveOfSerializeIsIdentity
  exact fun f clk dio => seeAll_frameEvents rfl f

/-- Settles O39: the 53 events, computed. -/
theorem workedFrame40LineEvents : Obligations.WorkedFrame40LineEvents := by
  unfold Obligations.WorkedFrame40LineEvents
  decide

/-! ## The phases (R150 to R155) -/

/-- Settles O37: each phase is its events driven (`sendByte_eq` for BYTE). -/
theorem serializerPhasesInOrder : Obligations.SerializerPhasesInOrder := by
  unfold Obligations.SerializerPhasesInOrder
  intro s f i b
  rw [sendByte_eq]
  exact ⟨rfl, ⟨rfl, rfl, rfl⟩, ⟨rfl, rfl, rfl, rfl, rfl⟩, ⟨rfl, rfl, rfl, rfl, rfl⟩, ⟨rfl, rfl, rfl, rfl, rfl⟩,
    rfl, rfl, rfl⟩

/-! ## The line log carries the frame log -/

theorem linesCarryFrames_congr {s t : State} (h : s.LinesCarryFrames) (htx : t.txlog = s.txlog)
    (hlines : t.linelog = s.linelog) : t.LinesCarryFrames := by
  obtain ⟨hframes, hclosed⟩ := h
  exact ⟨by rw [hlines, htx, hframes], by rw [hlines, hclosed]⟩

/-- A frame sent and logged is a frame received. -/
theorem sent_linesCarryFrames {s : State} (h : s.LinesCarryFrames) (f : Frame) : (s.sent f).LinesCarryFrames := by
  obtain ⟨hframes, hclosed⟩ := h
  have received : (Receiver.fresh false false).seeAll (s.sent f).linelog =
      { clk := true, dio := true, inFrame := false, bits := [], frames := s.txlog ++ [f] } := by
    rw [sent_linelog, seeAll_append, seeAll_frameEvents hclosed, hframes]
  exact ⟨by rw [received, sent_txlog], by rw [received]⟩

/-- Over the serializer a command keeps the two logs, or sends one frame within the command (R156). -/
theorem exec_serializer_cases {i : Instr} {s t : State} (hlink : s.cfg.link = .serializer) (h : exec i s = .next t) :
    (t.cfg = s.cfg ∧ t.emitting = s.emitting ∧ t.txlog = s.txlog ∧ t.linelog = s.linelog) ∨
      ∃ f d, t = State.sent { s with dispctl := d } f := by
  cases hs : sends s i with
  | none =>
    obtain ⟨hcfg, -, htx, hlines, -, -, -, hemit, -⟩ := exec_frame_of_sends_none h hs
    exact .inl ⟨hcfg, hemit, htx, hlines⟩
  | some fd =>
    obtain ⟨f, d⟩ := fd
    rw [exec_of_sends hs] at h
    rcases emit_cases h with ⟨-, -, rfl⟩ | ⟨hext, -⟩
    · exact .inr ⟨f, d, rfl⟩
    · simp [hlink] at hext

/-- Settles O40: a step over the serializer idles, sets ILL, keeps the two logs, or sends a frame that a receiver gets
(`sent_linesCarryFrames`). -/
theorem stepKeepsLinesCarryingFrames : Obligations.StepKeepsLinesCarryingFrames := by
  unfold Obligations.StepKeepsLinesCarryingFrames
  intro s t hlink hemit hlines h
  rcases step_cases h with ⟨f, hwait, -⟩ | ⟨-, -, rfl⟩ | ⟨item, rest, i, -, -, -, hexec⟩ | ⟨item, rest, -, -, rfl⟩
  · simp [hemit] at hwait
  · exact ⟨hlink, hemit, hlines⟩
  · rcases exec_serializer_cases (s := { s with pending := rest }) hlink hexec with
      ⟨hcfg, hemit', htx, hlog⟩ | ⟨f, d, rfl⟩
    · exact ⟨hcfg ▸ hlink, hemit'.trans hemit, linesCarryFrames_congr hlines htx hlog⟩
    · have hlines' : State.LinesCarryFrames { s with pending := rest, dispctl := d } :=
        linesCarryFrames_congr hlines rfl rfl
      exact ⟨hlink, hemit, sent_linesCarryFrames hlines' f⟩
  · exact ⟨hlink, hemit, linesCarryFrames_congr hlines rfl rfl⟩

/-- Settles O41: both logs are empty after reset. -/
theorem resetLinesCarryFrames : Obligations.ResetLinesCarryFrames := by
  unfold Obligations.ResetLinesCarryFrames
  exact fun c => ⟨⟨rfl, rfl⟩, rfl⟩

end Sys2Proof.Machine
end

section
/-! PROOFS. The machine invariant (10_state.md R24, R28, R33; 42_frame_encoder.md R142; 43_link_serializer.md R156). -/

namespace Sys2Proof.Machine

/-- After reset every row is 0, no frame is logged or waits, and the serializer is at rest (R36). -/
theorem resetWith_inv {c : Config} (hc : c.Wf) : (State.resetWith c).Inv where
  cfg_wf := hc
  buf_wf := Memory.wf_nil
  buf_rows := nofun
  rows_masked := fun _ => BitVec.zero_and
  status_reserved := BitVec.zero_and
  txlog_shape := nofun
  emitting_shape := nofun
  emitting_link := fun _ => rfl
  lstate_idle := rfl
  linemode_periph := rfl

/-- Settles O43: `resetWith_inv`, and the default parameters are legal. -/
theorem resetMeetsTheInvariant : Obligations.ResetMeetsTheInvariant := by
  unfold Obligations.ResetMeetsTheInvariant
  exact ⟨resetWith_inv (by decide), fun _ hc => resetWith_inv hc⟩

/-! ## What each part of the state must meet -/

/-- The invariant after an update of the buffer. -/
theorem inv_of_buf {s : State} (h : s.Inv) {b : Memory} (hwf : Memory.wf b) (hrows : ∀ c ∈ b, c.1 < s.cfg.rowCount)
    (hmask : ∀ a, Memory.read b a &&& ~~~ s.cfg.rowMask = 0#8) : State.Inv { s with buf := b } where
  cfg_wf := h.cfg_wf
  buf_wf := hwf
  buf_rows := hrows
  rows_masked := hmask
  status_reserved := h.status_reserved
  txlog_shape := h.txlog_shape
  emitting_shape := h.emitting_shape
  emitting_link := h.emitting_link
  lstate_idle := h.lstate_idle
  linemode_periph := h.linemode_periph

/-- The invariant after the frame port, the lines and the registers have moved. -/
theorem inv_of_port {s t : State} (h : s.Inv) (hcfg : t.cfg = s.cfg) (hbuf : t.buf = s.buf)
    (hstatus : t.status &&& ~~~ statusBits = 0#8) (htx : ∀ f ∈ t.txlog, FrameShape s.cfg f)
    (hshape : ∀ f ∈ t.emitting, FrameShape s.cfg f) (hlink : s.cfg.link = .serializer → t.emitting = none)
    (hl : t.lstate = .idle) (hm : t.linemode = .periph) : t.Inv where
  cfg_wf := hcfg ▸ h.cfg_wf
  buf_wf := hbuf ▸ h.buf_wf
  buf_rows := by rw [hbuf, hcfg]; exact h.buf_rows
  rows_masked := by rw [hbuf, hcfg]; exact h.rows_masked
  status_reserved := hstatus
  txlog_shape := by rw [hcfg]; exact htx
  emitting_shape := by rw [hcfg]; exact hshape
  emitting_link := by rw [hcfg]; exact hlink
  lstate_idle := hl
  linemode_periph := hm

/-- The invariant after the registers and the host's sequence have moved. -/
theorem inv_of_registers {s t : State} (h : s.Inv) (hcfg : t.cfg = s.cfg) (hbuf : t.buf = s.buf)
    (hstatus : t.status &&& ~~~ statusBits = 0#8) (htx : t.txlog = s.txlog) (hemit : t.emitting = s.emitting)
    (hl : t.lstate = s.lstate) (hm : t.linemode = s.linemode) : t.Inv :=
  inv_of_port h hcfg hbuf hstatus (htx ▸ h.txlog_shape) (hemit ▸ h.emitting_shape) (hemit ▸ h.emitting_link)
    (hl.trans h.lstate_idle) (hm.trans h.linemode_periph)

/-! ## STATUS (R28) -/

theorem statusWithFound_reserved (st : BitVec 8) (b : Bool) :
    statusWithFound st b &&& ~~~ statusBits = st &&& ~~~ statusBits := by
  cases b
  · exact BitVec.and_assoc _ _ _
  · show (st ||| foundBit) &&& ~~~ statusBits = _
    rw [BitVec.and_or_distrib_right]
    exact BitVec.or_zero

theorem statusWithIll_reserved (st : BitVec 8) : statusWithIll st &&& ~~~ statusBits = st &&& ~~~ statusBits := by
  rw [statusWithIll, BitVec.and_or_distrib_right]
  exact BitVec.or_zero

theorem lookupChar_inv {s : State} (h : s.Inv) (chr : Byte) : (s.lookupChar chr).Inv :=
  inv_of_registers h rfl rfl ((statusWithFound_reserved _ _).trans h.status_reserved) rfl rfl rfl rfl

theorem undefinedCommand_inv {s : State} (h : s.Inv) : (undefinedCommand s).Inv :=
  inv_of_registers h rfl rfl ((statusWithIll_reserved _).trans h.status_reserved) rfl rfl rfl rfl

/-! ## The buffer (R21, R24) -/

/-- A transposed write leaves the valid bits only (R111). -/
theorem columnByte_masked (c : Config) (pos : Byte) (mask : Mask) (row : Nat) (old : Byte) :
    columnByte c pos mask row old &&& ~~~ c.rowMask = 0#8 := by
  have valid (x : Byte) : x &&& c.rowMask &&& ~~~ c.rowMask = 0#8 := by
    rw [BitVec.and_assoc, BitVec.and_not_self]; exact BitVec.and_zero
  unfold columnByte
  split <;> exact valid _

/-- In `SEG7` every bit of a row is valid (R13). -/
theorem masked_seg7 {c : Config} (ht : c.topo = .seg7) (x : Byte) : x &&& ~~~ c.rowMask = 0#8 := by
  rw [rowMask_seg7 ht, show ~~~ (0xFF#8 : Byte) = 0#8 from rfl, BitVec.and_zero]

/-- SETDIG's effect writes rows that exist only. -/
theorem setDigit_rows {s : State} (h : ∀ c ∈ s.buf, c.1 < s.cfg.rowCount) (pos : Byte) (mask : Mask) :
    ∀ c ∈ (s.setDigit pos mask).buf, c.1 < s.cfg.rowCount := by
  intro c hc
  rw [setDigit_buf] at hc
  split at hc
  · rename_i hpos
    cases ht : s.cfg.topo with
    | seg16 =>
      simp only [ht] at hc
      exact (Memory.mem_sweep hc).elim (h c) id
    | seg7 =>
      simp only [ht, Config.posCount] at hc hpos
      rcases Memory.mem_write hc with hc | hc
      · exact h c hc
      · omega
  · exact h c hc

/-- SETDIG's effect sets no bit outside the row mask. -/
theorem setDigit_masked {s : State} (h : s.Inv) (pos : Byte) (mask : Mask) (a : Nat) :
    Memory.read (s.setDigit pos mask).buf a &&& ~~~ s.cfg.rowMask = 0#8 := by
  cases ht : s.cfg.topo with
  | seg16 =>
    rw [read_setDigit_seg16 ht h.buf_wf]
    split
    · exact columnByte_masked _ _ _ _ _
    · exact h.rows_masked a
  | seg7 => exact masked_seg7 ht _

theorem setDigit_inv {s : State} (h : s.Inv) (pos : Byte) (mask : Mask) : (s.setDigit pos mask).Inv := by
  rw [setDigit_eq]
  exact inv_of_buf h (setDigit_wf h.buf_wf pos mask) (setDigit_rows h.buf_rows pos mask) (setDigit_masked h pos mask)

theorem clearRows_inv {s : State} (h : s.Inv) : s.clearRows.Inv := by
  refine inv_of_buf h (Memory.sweep_wf h.buf_wf _ _) (fun c hc => (Memory.mem_sweep hc).elim (h.buf_rows c) id)
    (fun a => ?_)
  rw [Memory.read_sweep h.buf_wf]
  split
  · exact BitVec.zero_and
  · exact h.rows_masked a

/-! ## The frame port (R142) -/

theorem flushFrame_shape (s : State) : FrameShape s.cfg s.flushFrame := .inr ⟨flushFrame_length s, rfl⟩

/-- A command other than FLUSH sends one byte. -/
theorem sends_length {s : State} {i : Instr} {f : Frame} {d : BitVec 4} (h : sends s i = some (f, d))
    (hi : i ≠ .flush) : f.length = 1 := by
  cases i <;> simp only [sends, Option.some.injEq, Prod.mk.injEq, reduceCtorEq] at h <;> obtain ⟨rfl, -⟩ := h
  case flush => exact absurd rfl hi
  all_goals rfl

/-- What a command sends has one of the two shapes. -/
theorem sends_shape {s : State} {i : Instr} {f : Frame} {d : BitVec 4} (h : sends s i = some (f, d)) :
    FrameShape s.cfg f := by
  by_cases hi : i = .flush
  · subst hi
    obtain ⟨rfl, -⟩ : s.flushFrame = f ∧ s.dispctl = d := by simpa [sends] using h
    exact flushFrame_shape s
  · exact .inl (sends_length h hi)

theorem txlog_append_shape {s : State} (h : s.Inv) {f : Frame} (hf : FrameShape s.cfg f) :
    ∀ g ∈ s.txlog ++ [f], FrameShape s.cfg g := by
  intro g hg
  rcases List.mem_append.1 hg with hg | hg
  · exact h.txlog_shape g hg
  · rw [List.mem_singleton.1 hg]; exact hf

/-- An external link keeps the invariant, whether it takes the frame or not. -/
theorem offer_inv {s : State} (h : s.Inv) (hlink : s.cfg.link = .external) {f : Frame} (hf : FrameShape s.cfg f) :
    (s.offer f).Inv := by
  have notSerializer : s.cfg.link ≠ .serializer := by simp [hlink]
  have waiting : ∀ g ∈ some f, FrameShape s.cfg g := by rintro g ⟨⟩; exact hf
  rcases offer_cases f s with ⟨rest, -, e⟩ | ⟨rest, -, e⟩ | ⟨-, e⟩ <;> rw [e]
  · exact inv_of_port h rfl rfl h.status_reserved (txlog_append_shape h hf) nofun (absurd · notSerializer)
      h.lstate_idle h.linemode_periph
  · exact inv_of_port h rfl rfl h.status_reserved h.txlog_shape waiting (absurd · notSerializer)
      h.lstate_idle h.linemode_periph
  · exact inv_of_port h rfl rfl h.status_reserved h.txlog_shape waiting (absurd · notSerializer)
      h.lstate_idle h.linemode_periph

/-- Emitting a frame of one of the two shapes keeps the invariant. -/
theorem emit_inv {s t : State} (h : s.Inv) {f : Frame} (hf : FrameShape s.cfg f) (he : emit f s = .next t) : t.Inv := by
  rcases emit_cases he with ⟨hlink, -, rfl⟩ | ⟨hlink, rfl⟩
  · have idle : s.emitting = none := h.emitting_link hlink
    exact inv_of_port h rfl rfl h.status_reserved (txlog_append_shape h hf) (by simp [idle]) (fun _ => idle) rfl rfl
  · exact offer_inv h hlink hf

/-! ## Commands and steps -/

/-- Every command keeps the invariant. -/
theorem exec_inv {i : Instr} {s t : State} (h : s.Inv) (hexec : exec i s = .next t) : t.Inv := by
  rcases exec_cases hexec with ⟨c, -, rfl⟩ | ⟨p, m, -, rfl⟩ | ⟨r, -, rfl⟩ | ⟨p, c, -, rfl⟩ | ⟨-, rfl⟩ |
    ⟨f, d, hs, he⟩
  · exact lookupChar_inv h c
  · exact setDigit_inv h p m
  · exact inv_of_registers h rfl rfl h.status_reserved rfl rfl rfl rfl
  · exact setDigit_inv (lookupChar_inv h c) p _
  · exact clearRows_inv h
  · have hd : State.Inv { s with dispctl := d } := inv_of_registers h rfl rfl h.status_reserved rfl rfl rfl rfl
    exact emit_inv (s := { s with dispctl := d }) hd (sends_shape (s := s) hs) he

/-- A frame waits on an external link only (R156). -/
theorem link_external_of_emitting {s : State} (h : s.Inv) {f : Frame} (he : s.emitting = some f) :
    s.cfg.link = .external := by
  cases hlink : s.cfg.link with
  | external => rfl
  | serializer => simp [h.emitting_link hlink] at he

/-- A poll that answers a next state has offered the waiting frame. -/
theorem poll_eq_offer {f : Frame} {s t : State} (h : poll f s = .next t) : t = s.offer f := by
  unfold poll at h
  split at h <;> cases h
  rfl

/-- Settles O44: a step polls with a frame that has a shape, idles, runs a command (`exec_inv`), or sets ILL. -/
theorem stepKeepsTheInvariant : Obligations.StepKeepsTheInvariant := by
  unfold Obligations.StepKeepsTheInvariant
  intro s t h hstep
  have accepted (rest : List PortItem) : State.Inv { s with pending := rest } :=
    inv_of_registers h rfl rfl h.status_reserved rfl rfl rfl rfl
  rcases step_cases hstep with ⟨f, hwait, hpoll⟩ | ⟨-, -, rfl⟩ | ⟨item, rest, i, -, -, -, hexec⟩ |
    ⟨item, rest, -, -, rfl⟩
  · rw [poll_eq_offer hpoll]
    exact offer_inv h (link_external_of_emitting h hwait) (h.emitting_shape f hwait)
  · exact h
  · exact exec_inv (accepted rest) hexec
  · exact undefinedCommand_inv (accepted rest)

end Sys2Proof.Machine
end

section
/-! PROOFS. The look-up (40_font_lookup.md R101 to R104). -/

namespace Sys2Proof.Machine

/-! ## upcase (R19) -/

/-- Settles O12: the two branches of `upcase`; a lower-case letter is at least `0x20`. -/
theorem upcaseMovesOnlyLowerCaseLetters : Obligations.UpcaseMovesOnlyLowerCaseLetters := by
  unfold Obligations.UpcaseMovesOnlyLowerCaseLetters
  intro c
  have lower : (0x61#8 ≤ c ∧ c ≤ 0x7A#8) ↔ (0x61 ≤ c.toNat ∧ c.toNat ≤ 0x7A) := Iff.rfl
  unfold upcase
  refine ⟨fun h => ?_, fun h => ?_⟩
  · rw [if_pos (lower.2 h)]
    exact BitVec.toNat_sub_of_le (show 0x20 ≤ c.toNat by omega)
  · rw [if_neg (mt lower.1 h)]

/-! ## What LOOKUP answers (R102) -/

theorem exec_lookup_found {s : State} {chr : Byte} {m : Mask} (h : s.cfg.lookup chr = some m) :
    exec (.lookup chr) s = .next { s with status := s.status ||| 0b1#8, result := m } := by
  show Host.Outcome.next (s.setLookup (s.cfg.lookup chr)) = _
  rw [h]; rfl

theorem exec_lookup_missed {s : State} {chr : Byte} (h : s.cfg.lookup chr = none) :
    exec (.lookup chr) s = .next { s with status := s.status &&& 0b11111110#8, result := 0x0000#16 } := by
  show Host.Outcome.next (s.setLookup (s.cfg.lookup chr)) = _
  rw [h]; rfl

/-- The first entry with the key is the one found. -/
theorem lookup_of_first {c : Config} {chr : Byte} {before after : List Glyph} {g : Glyph}
    (hfont : c.font = before ++ g :: after) (hkey : g.character = c.lookupKey chr)
    (hfirst : ∀ h ∈ before, h.character ≠ c.lookupKey chr) : c.lookup chr = some g.mask := by
  have found : c.font.find? (fun g => g.character == c.lookupKey chr) = some g :=
    List.find?_eq_some_iff_append.2 ⟨by simp [hkey], before, after, hfont, fun h hh => by simp [hfirst h hh]⟩
  rw [Config.lookup, found, Option.map_some]

theorem lookup_of_absent {c : Config} {chr : Byte} (h : ∀ g ∈ c.font, g.character ≠ c.lookupKey chr) :
    c.lookup chr = none := by
  rw [Config.lookup, List.find?_eq_none.2 (fun g hg => by simp [h g hg]), Option.map_none]

/-- Settles O11: in either topology `font` is the active font and `key` the key of the character. -/
theorem lookupGivesTheFirstMatch : Obligations.LookupGivesTheFirstMatch := by
  unfold Obligations.LookupGivesTheFirstMatch
  intro s chr key font htopo
  obtain ⟨rfl, rfl⟩ : font = s.cfg.font ∧ key = s.cfg.lookupKey chr := by
    rcases htopo with ⟨ht, rfl, rfl⟩ | ⟨ht, rfl, rfl⟩ <;> simp [Config.font, Config.lookupKey, ht]
  exact ⟨fun before after g hfont hkey hfirst => exec_lookup_found (lookup_of_first hfont hkey hfirst),
    fun habsent => exec_lookup_missed (lookup_of_absent habsent)⟩

/-! ## What LOOKUP reads -/

theorem lookup_congr {c c' : Config} {chr chr' : Byte} (hfont : c.font = c'.font)
    (hkey : c.lookupKey chr = c'.lookupKey chr') : c.lookup chr = c'.lookup chr' := by
  rw [Config.lookup, Config.lookup, hfont, hkey]

/-- Settles O14: the font and the key are functions of the topology, the active font and the character. -/
theorem lookupReadsOnlyTheActiveFont : Obligations.LookupReadsOnlyTheActiveFont := by
  unfold Obligations.LookupReadsOnlyTheActiveFont
  intro s s' chr htopo h16 h7
  have same : s.cfg.lookup chr = s'.cfg.lookup chr := by
    apply lookup_congr
    · cases ht : s.cfg.topo with
      | seg16 => simp only [Config.font, ← htopo, ht, h16 ht]
      | seg7 => simp only [Config.font, ← htopo, ht, h7 ht]
    · simp only [Config.lookupKey, htopo]
  refine ⟨_, _, rfl, rfl, ?_, ?_⟩
  · rw [lookupChar_result, lookupChar_result, same]
  · rw [lookupChar_status, lookupChar_status, statusWithFound_bit0, statusWithFound_bit0, same]

/-! ## The premises on the fonts (R101) -/

theorem isAlnum_iff {c : Byte} : isAlnum c = true ↔
    (0x30 ≤ c.toNat ∧ c.toNat ≤ 0x39) ∨ (0x41 ≤ c.toNat ∧ c.toNat ≤ 0x5A) := by
  simp [isAlnum, BitVec.le_def]

theorem isLower_iff {c : Byte} : isLower c = true ↔ 0x61 ≤ c.toNat ∧ c.toNat ≤ 0x7A := by
  simp [isLower, BitVec.le_def]

theorem mem_alnumCodes {c : Byte} (h : isAlnum c = true) : c ∈ alnumCodes := by
  have at_offset {base : Nat} (hbase : base ≤ c.toNat) : BitVec.ofNat 8 (base + (c.toNat - base)) = c := by
    rw [Nat.add_sub_cancel' hbase, BitVec.ofNat_toNat, BitVec.setWidth_eq]
  rcases isAlnum_iff.1 h with ⟨hlow, hhigh⟩ | ⟨hlow, hhigh⟩
  · exact List.mem_append_left _ (List.mem_map.2 ⟨_, List.mem_range.2 (by omega), at_offset hlow⟩)
  · exact List.mem_append_right _ (List.mem_map.2 ⟨_, List.mem_range.2 (by omega), at_offset hlow⟩)

theorem isAlnum_upcase (c : Byte) : isAlnum (upcase c) = true ↔ isAlnum c = true ∨ isLower c = true := by
  obtain ⟨moved, kept⟩ := upcaseMovesOnlyLowerCaseLetters c
  by_cases hlower : 0x61 ≤ c.toNat ∧ c.toNat ≤ 0x7A
  · have hup := moved hlower
    rw [isAlnum_iff, isAlnum_iff, isLower_iff]; omega
  · rw [kept hlower, isAlnum_iff, isLower_iff]; omega

/-- A lower-case letter and its upper-case one have the same key in `SEG7`. -/
theorem upcase_of_isLower {c : Byte} (h : isLower c = true) : upcase (c - 0x20#8) = upcase c := by
  have hlower := isLower_iff.1 h
  obtain ⟨moved, -⟩ := upcaseMovesOnlyLowerCaseLetters c
  obtain ⟨-, kept⟩ := upcaseMovesOnlyLowerCaseLetters (c - 0x20#8)
  have hsub : (c - 0x20#8).toNat = c.toNat - 0x20 := BitVec.toNat_sub_of_le (show 0x20 ≤ c.toNat by omega)
  rw [kept (by omega)]
  exact BitVec.eq_of_toNat_eq (hsub.trans (moved hlower).symm)

theorem not_isAlnum_of_isLower {c : Byte} (h : isLower c = true) : isAlnum c = false := by
  have hlower := isLower_iff.1 h
  rw [← Bool.not_eq_true, isAlnum_iff]
  omega

theorem not_isPunctuation_of_isLower {c : Byte} (h : isLower c = true) : isPunctuation c = false := by
  simp [isPunctuation, h]

/-- LOOKUP's FOUND bit: some entry of the active font has the key. -/
theorem lookupChar_found (s : State) (chr : Byte) :
    (s.lookupChar chr).status.getLsbD 0 = s.cfg.font.any (fun g => g.character == s.cfg.lookupKey chr) := by
  rw [lookupChar_status, statusWithFound_bit0, lookup_isSome]

/-- A digit or an upper-case letter is in a font that has all of them. -/
theorem any_of_isAlnum {font : List Glyph} (h : alnumCodes.all (fun c => font.any (fun g => g.character == c)) = true)
    {c : Byte} (hc : isAlnum c = true) : font.any (fun g => g.character == c) = true :=
  List.all_eq_true.1 h c (mem_alnumCodes hc)

/-- `FONT7` has a character exactly if it is a digit or an upper-case letter (R101 (a)). -/
theorem any_font7_iff {font : List Glyph} (h : font7Chars font = true) {c : Byte} :
    font.any (fun g => g.character == c) = true ↔ isAlnum c = true := by
  obtain ⟨hall, hcodes⟩ := Bool.and_eq_true_iff.1 h
  refine ⟨fun hany => ?_, any_of_isAlnum hcodes⟩
  obtain ⟨g, hg, hgc⟩ := List.any_eq_true.1 hany
  rw [← beq_iff_eq.1 hgc]
  exact List.all_eq_true.1 hall g hg

/-- `FONT16` has no lower-case letter (R101 (b)). -/
theorem any_font16_of_isLower {font : List Glyph} (h : font16Chars font = true) {c : Byte} (hc : isLower c = true) :
    font.any (fun g => g.character == c) = false := by
  obtain ⟨hall, -⟩ := Bool.and_eq_true_iff.1 h
  refine List.any_eq_false.2 fun g hg hgc => ?_
  have admitted := List.all_eq_true.1 hall g hg
  rw [beq_iff_eq.1 hgc, not_isAlnum_of_isLower hc, not_isPunctuation_of_isLower hc] at admitted
  exact absurd admitted (by decide)

/-- Settles O13: what the fonts hold (`any_font7_iff`, `any_of_isAlnum`, `any_font16_of_isLower`), at the key. -/
theorem lookupUnderTheFontPremises : Obligations.LookupUnderTheFontPremises := by
  unfold Obligations.LookupUnderTheFontPremises
  intro s chr hfonts
  obtain ⟨⟨⟨h7, h16⟩, -⟩, -⟩ : ((font7Chars s.cfg.font7 = true ∧ font16Chars s.cfg.font16 = true) ∧ _) ∧ _ := by
    simpa only [Config.fontsOk, Bool.and_eq_true] using hfonts
  refine ⟨s.lookupChar chr, rfl, fun ht => ⟨?_, fun hlower => ?_⟩, fun ht => ⟨fun halnum => ?_, fun hlower => ?_⟩⟩
  · rw [lookupChar_found, Config.font, Config.lookupKey, ht, any_font7_iff h7, isAlnum_upcase]
  · have same : s.cfg.lookup (chr - 0x20#8) = s.cfg.lookup chr :=
      lookup_congr rfl (by simp only [Config.lookupKey, ht, upcase_of_isLower hlower])
    exact congrArg (fun r => Host.Outcome.next (s.setLookup r)) same
  · rw [lookupChar_found, Config.font, Config.lookupKey, ht]
    obtain ⟨-, hcodes⟩ := Bool.and_eq_true_iff.1 h16
    exact any_of_isAlnum hcodes halnum
  · have missed : s.cfg.font.any (fun g => g.character == s.cfg.lookupKey chr) = false := by
      rw [Config.font, Config.lookupKey, ht]
      exact any_font16_of_isLower h16 hlower
    have absent : s.cfg.lookup chr = none := by
      rw [← Option.not_isSome_iff_eq_none, lookup_isSome, missed]; decide
    exact ⟨by rw [lookupChar_found, missed], by rw [lookupChar_result, absent]; rfl⟩

end Sys2Proof.Machine
end

section
/-! PROOFS. The buffer: SETDIG's properties, CLR and PUTC (41_buffer_transposer.md R111 to R121). -/

namespace Sys2Proof.Machine

/-! ## A transposed write, bit by bit (R111) -/

/-- Bit `d` of a row after a transposed write: the position's bit is the mask's, and no bit outside the row mask
is set. -/
theorem columnByte_bit (c : Config) (pos : Byte) (mask : Mask) (row : Nat) (old : Byte) {d : Nat} (hd : d < 8) :
    (columnByte c pos mask row old).getLsbD d =
      ((if d = pos.toNat then mask.getLsbD row else old.getLsbD d) && c.rowMask.getLsbD d) := by
  unfold columnByte
  by_cases hpos : d = pos.toNat
  · have own : (posBit pos).getLsbD d = true := (posBit_bit pos hd).trans (decide_eq_true hpos)
    cases mask.getLsbD row <;>
      simp only [if_pos hpos, if_true, Bool.false_eq_true, if_false, BitVec.getLsbD_and, BitVec.getLsbD_or,
        BitVec.getLsbD_not, own, Bool.or_true, Bool.not_true, Bool.and_false]
  · have other : (posBit pos).getLsbD d = false := (posBit_bit pos hd).trans (decide_eq_false hpos)
    cases mask.getLsbD row <;>
      simp only [if_neg hpos, if_true, Bool.false_eq_true, if_false, BitVec.getLsbD_and, BitVec.getLsbD_or,
        BitVec.getLsbD_not, other, hd, decide_true, Bool.or_false, Bool.not_false, Bool.and_true]

/-- A second write of the same position overwrites the first. -/
theorem columnByte_same (c : Config) (pos : Byte) (m n : Mask) (row : Nat) (old : Byte) :
    columnByte c pos n row (columnByte c pos m row old) = columnByte c pos n row old := by
  apply BitVec.eq_of_getLsbD_eq
  intro d hd
  simp only [columnByte_bit _ _ _ _ _ hd]
  split <;> simp

/-- Writes of different positions commute. -/
theorem columnByte_comm (c : Config) {p q : Byte} (hpq : p ≠ q) (m n : Mask) (row : Nat) (old : Byte) :
    columnByte c q n row (columnByte c p m row old) = columnByte c p m row (columnByte c q n row old) := by
  have hne : p.toNat ≠ q.toNat := fun h => hpq (BitVec.eq_of_toNat_eq h)
  apply BitVec.eq_of_getLsbD_eq
  intro d hd
  simp only [columnByte_bit _ _ _ _ _ hd]
  by_cases hp : d = p.toNat
  · simp [hp, hne]
  · by_cases hq : d = q.toNat
    · simp [hq, hne.symm]
    · simp [hp, hq]

/-! ## Rows under the invariant (R24) -/

theorem and_eq_self_of_and_not {x m : Byte} (h : x &&& ~~~ m = 0#8) : x &&& m = x := by
  calc x &&& m = (x &&& m) ||| (x &&& ~~~ m) := by rw [h]; exact BitVec.or_zero.symm
    _ = x := by rw [← BitVec.and_or_distrib_left, BitVec.or_not_self, BitVec.and_allOnes]

/-- Every row holds its valid bits only, so the read primitive gives the row as it is. -/
theorem getRow_of_inv {s : State} (h : s.Inv) {row : Nat} (hrow : row < s.cfg.rowCount) :
    s.getRow row = Memory.read s.buf row :=
  (getRow_in_range hrow).trans (and_eq_self_of_and_not (h.rows_masked row))

theorem posCount_seg7 {c : Config} (ht : c.topo = .seg7) : c.posCount = c.rows7 := by
  simp only [Config.posCount, ht, rowCount_seg7 ht]

theorem digits_le_of_inv {s : State} (h : s.Inv) : s.cfg.digits ≤ 8 := by
  obtain ⟨⟨-, hdigits⟩, -⟩ := h.cfg_wf
  exact hdigits

/-- Bit by bit, what SETDIG leaves in each row in `SEG16`: the position's bit of the 16 rows, and no other. -/
theorem read_setDigit_bit {s : State} (h : s.Inv) (ht : s.cfg.topo = .seg16) {pos : Byte} (mask : Mask)
    (hpos : pos.toNat < s.cfg.digits) (a : Nat) {d : Nat} (hd : d < 8) :
    (Memory.read (s.setDigit pos mask).buf a).getLsbD d =
      if d = pos.toNat ∧ a < 16 then mask.getLsbD a else (Memory.read s.buf a).getLsbD d := by
  rw [read_setDigit_seg16 ht h.buf_wf]
  by_cases ha : a < 16
  · rw [if_pos ⟨hpos, ha⟩, columnByte_bit _ _ _ _ _ hd]
    by_cases hown : d = pos.toNat
    · have valid : s.cfg.rowMask.getLsbD d = true := by rw [rowMask_bit ht hd, hown]; exact decide_eq_true hpos
      rw [if_pos hown, if_pos ⟨hown, ha⟩, valid, Bool.and_true]
    · rw [if_neg hown, if_neg (fun h => hown h.1), ← BitVec.getLsbD_and,
        and_eq_self_of_and_not (h.rows_masked a)]
  · rw [if_neg (fun h => ha h.2), if_neg (fun h => ha h.2)]

/-! ## SETDIG (R112, R113) -/

/-- Settles O16: the position's bit and the others are the two cases of `read_setDigit_bit`. -/
theorem setdigRoundTripAndLocality : Obligations.SetdigRoundTripAndLocality := by
  unfold Obligations.SetdigRoundTripAndLocality
  intro s pos mask ht hinv
  refine ⟨fun hpos => ⟨_, rfl, fun row hrow => ⟨?_, fun d hd hother => ?_⟩⟩,
    fun hpos => exec_setdig_out_of_range mask (by rwa [posCount_seg16 ht])⟩
  · have hd : pos.toNat < 8 := hpos.trans_le (digits_le_of_inv hinv)
    rw [getRow_of_inv (setDigit_inv hinv pos mask) (by rwa [setDigit_cfg, rowCount_seg16 ht]),
      read_setDigit_bit hinv ht mask hpos row hd, if_pos ⟨rfl, hrow⟩]
  · rw [read_setDigit_bit hinv ht mask hpos row hd, if_neg (fun h => hother h.1)]

/-- Settles O18: SETDIG's buffer is canonical (`setDigit_wf`) and its rows are those of `read_setDigit_seg7`. -/
theorem setdigWritesTheRowInSeg7 : Obligations.SetdigWritesTheRowInSeg7 := by
  unfold Obligations.SetdigWritesTheRowInSeg7
  intro s pos mask ht hwf
  refine ⟨fun hpos => ⟨_, exec_setdig_eq pos mask s, setDigit_wf hwf pos mask, fun row => ?_⟩,
    fun hpos => exec_setdig_out_of_range mask (by rwa [posCount_seg7 ht])⟩
  rw [read_setDigit_seg7 ht hwf, maskLow_eq_extract]
  simp only [hpos, true_and]

/-! ## Two SETDIGs (R112 (d), (e)) -/

/-- Two updates of the buffer are one. -/
theorem buf_update_trans {s t u : State} (h : t = { s with buf := t.buf }) (h' : u = { t with buf := u.buf }) :
    u = { s with buf := u.buf } := by
  rw [h] at h'
  exact h'

/-- Updates of the buffer of one state that read alike in canonical form are equal. -/
theorem buf_update_ext {s t u : State} (ht : t = { s with buf := t.buf }) (hu : u = { s with buf := u.buf })
    (hwt : Memory.wf t.buf) (hwu : Memory.wf u.buf) (h : ∀ a, Memory.read t.buf a = Memory.read u.buf a) : t = u := by
  rw [ht, hu, Memory.ext_of_wf hwt hwu h]

theorem setDigit_setDigit_eq (s : State) (p q : Byte) (m n : Mask) :
    (s.setDigit p m).setDigit q n = { s with buf := ((s.setDigit p m).setDigit q n).buf } :=
  buf_update_trans (setDigit_eq s p m) (setDigit_eq (s.setDigit p m) q n)

theorem setDigit_setDigit_wf {s : State} (h : Memory.wf s.buf) (p q : Byte) (m n : Mask) :
    Memory.wf ((s.setDigit p m).setDigit q n).buf :=
  setDigit_wf (setDigit_wf h p m) q n

/-- What the second of two SETDIGs leaves in each row in `SEG16`. -/
theorem read_setDigit_setDigit_seg16 {s : State} (ht : s.cfg.topo = .seg16) (hw : Memory.wf s.buf) (p q : Byte)
    (m n : Mask) (a : Nat) :
    Memory.read ((s.setDigit p m).setDigit q n).buf a =
      if q.toNat < s.cfg.digits ∧ a < 16 then columnByte s.cfg q n a (Memory.read (s.setDigit p m).buf a)
      else Memory.read (s.setDigit p m).buf a := by
  rw [read_setDigit_seg16 (by rwa [setDigit_cfg]) (setDigit_wf hw p m), setDigit_cfg]

/-- What the second of two SETDIGs leaves in each row in `SEG7`. -/
theorem read_setDigit_setDigit_seg7 {s : State} (ht : s.cfg.topo = .seg7) (hw : Memory.wf s.buf) (p q : Byte)
    (m n : Mask) (a : Nat) :
    Memory.read ((s.setDigit p m).setDigit q n).buf a =
      if q.toNat < s.cfg.rows7 ∧ a = q.toNat then maskLow n else Memory.read (s.setDigit p m).buf a := by
  rw [read_setDigit_seg7 (by rwa [setDigit_cfg]) (setDigit_wf hw p m), setDigit_cfg]

/-- A second SETDIG of the same position overwrites the first (R112 (d)). -/
theorem setDigit_same {s : State} (hw : Memory.wf s.buf) (p : Byte) (m n : Mask) :
    (s.setDigit p m).setDigit p n = s.setDigit p n := by
  refine buf_update_ext (setDigit_setDigit_eq s p p m n) (setDigit_eq s p n) (setDigit_setDigit_wf hw p p m n)
    (setDigit_wf hw p n) fun a => ?_
  cases ht : s.cfg.topo with
  | seg16 =>
    rw [read_setDigit_setDigit_seg16 ht hw, read_setDigit_seg16 ht hw, read_setDigit_seg16 ht hw]
    split
    · exact columnByte_same s.cfg p m n a _
    · rfl
  | seg7 =>
    rw [read_setDigit_setDigit_seg7 ht hw, read_setDigit_seg7 ht hw, read_setDigit_seg7 ht hw]
    split <;> rfl

/-- SETDIGs of different positions commute (R112 (e)). -/
theorem setDigit_comm {s : State} (hw : Memory.wf s.buf) {p q : Byte} (hpq : p ≠ q) (m n : Mask) :
    (s.setDigit p m).setDigit q n = (s.setDigit q n).setDigit p m := by
  refine buf_update_ext (setDigit_setDigit_eq s p q m n) (setDigit_setDigit_eq s q p n m)
    (setDigit_setDigit_wf hw p q m n) (setDigit_setDigit_wf hw q p n m) fun a => ?_
  cases ht : s.cfg.topo with
  | seg16 =>
    rw [read_setDigit_setDigit_seg16 ht hw, read_setDigit_setDigit_seg16 ht hw, read_setDigit_seg16 ht hw,
      read_setDigit_seg16 ht hw]
    by_cases hp : p.toNat < s.cfg.digits ∧ a < 16
    · simp only [if_pos hp, columnByte_comm s.cfg hpq]
      split <;> rfl
    · simp only [if_neg hp]
  | seg7 =>
    rw [read_setDigit_setDigit_seg7 ht hw, read_setDigit_setDigit_seg7 ht hw, read_setDigit_seg7 ht hw,
      read_setDigit_seg7 ht hw]
    by_cases hp : p.toNat < s.cfg.rows7 ∧ a = p.toNat
    · have notQ : ¬ (q.toNat < s.cfg.rows7 ∧ a = q.toNat) := fun hq =>
        hpq (BitVec.eq_of_toNat_eq (hp.2.symm.trans hq.2))
      simp only [if_pos hp, if_neg notQ]
    · simp only [if_neg hp]

/-- Settles O17: `setDigit_same` and `setDigit_comm`. -/
theorem setdigOverwritesAndCommutes : Obligations.SetdigOverwritesAndCommutes := by
  unfold Obligations.SetdigOverwritesAndCommutes
  intro s p q m n hinv
  refine ⟨_, _, _, _, rfl, rfl, rfl, rfl, fun hpq => ?_, fun hpq => setDigit_comm hinv.buf_wf hpq m n⟩
  rw [hpq]
  exact setDigit_same hinv.buf_wf q m n

/-! ## The mask of a position read back (R22, R119) -/

theorem digitMask_bit {s : State} (ht : s.cfg.topo = .seg16) (d : Nat) {k : Nat} (hk : k < 16) :
    (s.digitMask d).getLsbD k = (s.getRow k).getLsbD d := by
  unfold State.digitMask
  simp only [ht, BitVec.getLsbD_ofFnLE, hk, dite_true]

/-- Settles O19: the position itself is O16 and O18, every other one `digitMask_setDigit_other`. -/
theorem digitMaskAfterSetdig : Obligations.DigitMaskAfterSetdig := by
  unfold Obligations.DigitMaskAfterSetdig
  intro s pos mask hinv hpos
  refine ⟨s.setDigit pos mask, rfl, fun ht => ?_, fun ht => ?_,
    fun d hd => digitMask_setDigit_other hinv.buf_wf mask hd⟩
  · rw [posCount_seg16 ht] at hpos
    obtain ⟨t, hexec, hrows⟩ := (setdigRoundTripAndLocality s pos mask ht hinv).1 hpos
    cases hexec
    apply BitVec.eq_of_getLsbD_eq
    intro k hk
    obtain ⟨hbit, -⟩ := hrows k hk
    rw [digitMask_bit (by rwa [setDigit_cfg]) _ hk, hbit]
  · rw [posCount_seg7 ht] at hpos
    have hrow : pos.toNat < (s.setDigit pos mask).cfg.rowCount := by rwa [setDigit_cfg, rowCount_seg7 ht]
    have row : (s.setDigit pos mask).getRow pos.toNat = mask.extractLsb' 0 8 := by
      rw [getRow_of_inv (setDigit_inv hinv pos mask) hrow, read_setDigit_seg7 ht hinv.buf_wf, if_pos ⟨hpos, rfl⟩,
        maskLow_eq_extract]
    unfold State.digitMask
    simp only [setDigit_cfg, ht, row]

/-! ## CLR (R118) -/

/-- A row above every listed row reads 0. -/
theorem read_above {m : Memory} {n a : Nat} (h : ∀ c ∈ m, c.1 < n) (ha : n ≤ a) : Memory.read m a = 0x00#8 := by
  induction m with
  | nil => rfl
  | cons c m ih =>
    obtain ⟨hc, hm⟩ := List.forall_mem_cons.1 h
    obtain ⟨k, v⟩ := c
    rw [Memory.read, if_neg (show ¬ a = k by simp only at hc; omega)]
    exact ih hm

/-- A buffer cleared under the invariant lists no row. -/
theorem clearRows_buf_eq_nil {s : State} (h : s.Inv) : s.clearRows.buf = [] := by
  refine Memory.ext_of_wf (Memory.sweep_wf h.buf_wf _ _) Memory.wf_nil fun a => ?_
  rw [read_clearRows h.buf_wf]
  split
  · rfl
  · exact read_above h.buf_rows (by omega)

/-- Settles O21: a canonical buffer of zero rows is the empty one (`clearRows_buf_eq_nil`). -/
theorem clrZeroesTheBuffer : Obligations.ClrZeroesTheBuffer := by
  unfold Obligations.ClrZeroesTheBuffer
  intro s hwf
  refine ⟨s.clearRows.buf, rfl, Memory.sweep_wf hwf _ _, fun row hrow => ?_, fun row hrow => ?_, clearRows_buf_eq_nil⟩
  · rw [read_clearRows hwf, if_pos hrow]
  · rw [read_clearRows hwf, if_neg (by omega)]

/-! ## PUTC (R120, R121) -/

/-- Settles O22: `execPutc` is the two effects one after the other. -/
theorem putcIsLookupThenSetdig : Obligations.PutcIsLookupThenSetdig := by
  unfold Obligations.PutcIsLookupThenSetdig
  exact fun s pos chr => ⟨_, _, rfl, rfl, rfl⟩

theorem statusWithFound_eq (st : BitVec 8) (b : Bool) :
    statusWithFound st b = (st &&& 0b11111110#8) ||| (BitVec.ofBool b).setWidth 8 := by
  cases b
  · exact BitVec.or_zero.symm
  · apply BitVec.eq_of_getLsbD_eq
    intro i hi
    interval_cases i <;> simp [statusWithFound, foundBit]

/-- LOOKUP's effect, with what the look-up found. -/
theorem lookupChar_eq {s : State} {chr : Byte} {found : Bool} {m : Mask}
    (h : s.cfg.lookup chr = some m ∧ found = true ∨ s.cfg.lookup chr = none ∧ found = false ∧ m = 0x0000#16) :
    s.lookupChar chr =
      { s with result := m, status := (s.status &&& 0b11111110#8) ||| (BitVec.ofBool found).setWidth 8 } := by
  rw [← statusWithFound_eq]
  rcases h with ⟨hfound, rfl⟩ | ⟨hmissed, rfl, rfl⟩
  · rw [State.lookupChar, hfound]; rfl
  · rw [State.lookupChar, hmissed]; rfl

/-- Settles O23: PUTC is SETDIG of the mask found after LOOKUP, which leaves the buffer alone. -/
theorem putcShowsTheCharacter : Obligations.PutcShowsTheCharacter := by
  unfold Obligations.PutcShowsTheCharacter
  intro s pos chr found m hinv hlookup
  have hlooked := lookupChar_eq hlookup
  have hinv' := lookupChar_inv hinv chr
  have hresult : (s.lookupChar chr).result = m := by rw [hlooked]
  have hexec : exec (.putc pos chr) s = .next ((s.lookupChar chr).setDigit pos m) := by rw [← hresult]; rfl
  refine ⟨((s.lookupChar chr).setDigit pos m).buf, ?_, fun hpos => ?_, fun hpos ht row => ?_,
    fun hpos ht row d hd => ?_⟩
  · rw [hexec, setDigit_eq]
    exact congrArg (fun t => Host.Outcome.next { t with buf := ((s.lookupChar chr).setDigit pos m).buf }) hlooked
  · rw [setDigit_out_of_range (s := s.lookupChar chr) pos m hpos, lookupChar_buf]
  · rw [posCount_seg7 ht] at hpos
    rw [read_setDigit_seg7 (s := s.lookupChar chr) ht hinv'.buf_wf, maskLow_eq_extract]
    simp only [lookupChar_cfg, lookupChar_buf, hpos, true_and]
  · rw [posCount_seg16 ht] at hpos
    exact read_setDigit_bit hinv' ht m hpos row hd

end Sys2Proof.Machine
end

section
/-! PROOFS. Who writes what, and how a run goes (10_state.md sections 2 to 9, 45_command_classes.md,
70_reset_and_hazards.md section 4). -/

namespace Sys2Proof.Machine

/-- Settles O42: the fields of the reset state, read. -/
theorem resetValues : Obligations.ResetValues := by
  unfold Obligations.ResetValues
  refine ⟨⟨Config.default, rfl⟩, fun c s hs => ?_⟩
  subst hs
  exact ⟨fun _ => rfl, rfl, rfl, rfl, rfl, rfl, rfl, rfl⟩

/-- Settles O51: the response word has the fields of a command word, 0, STATUS as read and RESULT. -/
theorem responseWordLayout : Obligations.ResponseWordLayout := by
  unfold Obligations.ResponseWordLayout
  exact fun s => ⟨opField_commandWord 0x00#8 (statusRead s.status) s.result,
    aField_commandWord 0x00#8 (statusRead s.status) s.result, bField_commandWord 0x00#8 (statusRead s.status) s.result⟩

/-! ## Frame-emitting commands -/

/-- What a command that sends leaves alone, and the DISPCTL it writes. -/
theorem exec_frame_of_sends {i : Instr} {s t : State} {f : Frame} {d : BitVec 4} (h : exec i s = .next t)
    (hs : sends s i = some (f, d)) :
    t.cfg = s.cfg ∧ t.buf = s.buf ∧ t.dispctl = d ∧ t.status = s.status ∧ t.result = s.result ∧
      t.pending = s.pending ∧ t.periphBusy = s.periphBusy := by
  rw [exec_of_sends hs] at h
  exact emit_frame h

/-- The DISPCTL a command that sends leaves: only SETBRT and SETPWR write it (R27). -/
theorem sends_dispctl {s : State} {i : Instr} {f : Frame} {d : BitVec 4} (h : sends s i = some (f, d)) :
    (∃ level, i = .setbrt level ∧ d = dispctlWithBrt s.dispctl level) ∨
    (∃ on, i = .setpwr on ∧ d = dispctlWithPwr s.dispctl on) ∨ d = s.dispctl := by
  cases i <;> simp only [sends, Option.some.injEq, Prod.mk.injEq, reduceCtorEq] at h <;> obtain ⟨-, rfl⟩ := h
  case setbrt level => exact .inl ⟨level, rfl, rfl⟩
  case setpwr on => exact .inr (.inl ⟨on, rfl, rfl⟩)
  all_goals exact .inr (.inr rfl)

/-- An offer logs the frame or leaves it waiting; the lines are not this link's. -/
theorem offer_logs (f : Frame) (s : State) :
    ((s.offer f).txlog = s.txlog ∨ (s.offer f).txlog = s.txlog ++ [f]) ∧ (s.offer f).linelog = s.linelog := by
  rcases offer_cases f s with ⟨rest, -, e⟩ | ⟨rest, -, e⟩ | ⟨-, e⟩ <;> rw [e]
  · exact ⟨.inr rfl, rfl⟩
  · exact ⟨.inl rfl, rfl⟩
  · exact ⟨.inl rfl, rfl⟩

/-- Emitting a frame logs it or leaves it waiting, and only adds to the line log. -/
theorem emit_logs {f : Frame} {s t : State} (h : emit f s = .next t) :
    (t.txlog = s.txlog ∨ t.txlog = s.txlog ++ [f]) ∧ s.linelog <+: t.linelog := by
  rcases emit_cases h with ⟨-, -, rfl⟩ | ⟨-, rfl⟩
  · exact ⟨.inr rfl, List.prefix_append _ _⟩
  · obtain ⟨htx, hlines⟩ := offer_logs f s
    exact ⟨htx, by rw [hlines]⟩

/-! ## The writers of each register (R25 to R35) -/

/-- Settles O46: a command that sends keeps both registers; of the others LOOKUP and PUTC set FOUND. -/
theorem writersOfStatusAndResult : Obligations.WritersOfStatusAndResult := by
  unfold Obligations.WritersOfStatusAndResult
  intro i s t h
  rcases exec_cases h with ⟨c, rfl, rfl⟩ | ⟨p, m, rfl, rfl⟩ | ⟨r, rfl, rfl⟩ | ⟨p, c, rfl, rfl⟩ | ⟨rfl, rfl⟩ |
    ⟨f, d, hs, -⟩
  · exact ⟨fun b hb => statusWithFound_other _ _ hb, fun hl => absurd rfl (hl c), fun hl => absurd rfl (hl c)⟩
  · exact ⟨fun _ _ => by rw [setDigit_status], fun _ _ => setDigit_status s p m, fun _ _ _ => setDigit_result s p m⟩
  · exact ⟨fun _ _ => rfl, fun _ _ => rfl, fun _ _ hr => absurd rfl (hr r)⟩
  · refine ⟨fun b hb => ?_, fun _ hp => absurd rfl (hp p c), fun _ hp => absurd rfl (hp p c)⟩
    rw [setDigit_status]
    exact statusWithFound_other _ _ hb
  · exact ⟨fun _ _ => rfl, fun _ _ => rfl, fun _ _ _ => rfl⟩
  · obtain ⟨-, -, -, hstatus, hresult, -⟩ := exec_frame_of_sends h hs
    exact ⟨fun _ _ => by rw [hstatus], fun _ _ => hstatus, fun _ _ _ => hresult⟩

/-- Settles O47: DISPCTL is what the command sends (`sends_dispctl`), and each of its two writers keeps the other's
field. -/
theorem writersOfDispctl : Obligations.WritersOfDispctl := by
  unfold Obligations.WritersOfDispctl
  intro i s t h
  cases hs : sends s i with
  | none =>
    obtain ⟨-, hd, -⟩ := exec_frame_of_sends_none h hs
    exact ⟨fun _ _ => hd, fun _ _ _ => by rw [hd], fun _ => by rw [hd]⟩
  | some fd =>
    obtain ⟨f, d⟩ := fd
    obtain ⟨-, -, hd, -⟩ := exec_frame_of_sends h hs
    rcases sends_dispctl hs with ⟨level, rfl, rfl⟩ | ⟨on, rfl, rfl⟩ | rfl
    · exact ⟨fun hb => absurd rfl (hb level), fun hb => absurd rfl (hb level),
        fun _ => by rw [hd, dispctlWithBrt_pwr]⟩
    · exact ⟨fun _ hp => absurd rfl (hp on), fun _ b hb => by rw [hd, dispctlWithPwr_low _ _ hb],
        fun hp => absurd rfl (hp on)⟩
    · exact ⟨fun _ _ => hd, fun _ _ _ => by rw [hd], fun _ => by rw [hd]⟩

/-- Settles O48: LOOKUP and GETROW write registers, and a command that sends keeps the buffer. -/
theorem writersOfTheDigitBuffer : Obligations.WritersOfTheDigitBuffer := by
  unfold Obligations.WritersOfTheDigitBuffer
  intro i s t h hsetdig hputc hclr
  rcases exec_cases h with ⟨c, rfl, rfl⟩ | ⟨p, m, rfl, rfl⟩ | ⟨r, rfl, rfl⟩ | ⟨p, c, rfl, rfl⟩ | ⟨rfl, rfl⟩ |
    ⟨f, d, hs, -⟩
  · rfl
  · exact absurd rfl (hsetdig p m)
  · rfl
  · exact absurd rfl (hputc p c)
  · exact absurd rfl hclr
  · obtain ⟨-, hbuf, -⟩ := exec_frame_of_sends h hs
    exact hbuf

/-- Settles O49: a quiet command keeps the logs, a command that sends adds to them (`emit_logs`). -/
theorem commandsKeepProgramAndParameters : Obligations.CommandsKeepProgramAndParameters := by
  unfold Obligations.CommandsKeepProgramAndParameters
  intro i s t h
  cases hs : sends s i with
  | none =>
    obtain ⟨hcfg, -, htx, hlines, -, -, hpending, -, hbusy⟩ := exec_frame_of_sends_none h hs
    exact ⟨hcfg, hpending, hbusy, by rw [htx], by rw [hlines]⟩
  | some fd =>
    obtain ⟨f, d⟩ := fd
    obtain ⟨hcfg, -, -, -, -, hpending, hbusy⟩ := exec_frame_of_sends h hs
    rw [exec_of_sends hs] at h
    obtain ⟨htx, hlines⟩ := emit_logs h
    refine ⟨hcfg, hpending, hbusy, ?_, hlines⟩
    rcases htx with htx | htx <;> rw [htx]
    exact List.prefix_append _ _

/-! ## What a step keeps -/

/-- Settles O45: a command keeps bit 1 (O46), an undefined word sets it. -/
theorem illIsSticky : Obligations.IllIsSticky := by
  unfold Obligations.IllIsSticky
  intro s t hill hstep
  rcases step_cases hstep with ⟨f, -, hpoll⟩ | ⟨-, -, rfl⟩ | ⟨item, rest, i, -, -, -, hexec⟩ | ⟨item, rest, -, -, rfl⟩
  · rcases poll_cases hpoll with ⟨_, -, rfl⟩ | ⟨_, -, rfl⟩ <;> exact hill
  · exact hill
  · exact ((writersOfStatusAndResult i _ t hexec).1 1 (by decide)).trans hill
  · rw [undefinedCommand_status, statusWithIll, BitVec.getLsbD_or, show s.status.getLsbD 1 = true from hill]
    rfl

/-- Settles O50: a step logs the frame that waited or the one its command sends, of one of the two shapes (O44's clauses
and `sends_shape`); only FLUSH sends more than one byte (`sends_length`). -/
theorem frameLogGrowsByAtMostOneFrame : Obligations.FrameLogGrowsByAtMostOneFrame := by
  unfold Obligations.FrameLogGrowsByAtMostOneFrame
  refine ⟨fun s t hinv hstep => ?_, fun i s t h => ⟨fun quiet => ?_, fun f hflush htx => ?_⟩⟩
  · rcases step_cases hstep with ⟨f, hwait, hpoll⟩ | ⟨-, -, rfl⟩ | ⟨item, rest, i, -, -, -, hexec⟩ |
      ⟨item, rest, -, -, rfl⟩
    · rw [poll_eq_offer hpoll]
      exact (offer_logs f s).1.imp_right fun htx => ⟨f, htx, hinv.emitting_shape f hwait⟩
    · exact .inl rfl
    · cases hs : sends { s with pending := rest } i with
      | none =>
        obtain ⟨-, -, htx, -⟩ := exec_frame_of_sends_none hexec hs
        exact .inl htx
      | some fd =>
        obtain ⟨f, d⟩ := fd
        rw [exec_of_sends hs] at hexec
        exact (emit_logs hexec).1.imp_right fun htx => ⟨f, htx, sends_shape hs⟩
    · exact .inl rfl
  · obtain ⟨-, -, htx, hlines, -, -, -, hemit, -⟩ := exec_frame_of_sends_none h (sends_eq_none_iff.2 quiet)
    exact ⟨htx, hlines, hemit⟩
  · have grown : t.txlog ≠ s.txlog := by rw [htx]; simp
    cases hs : sends s i with
    | none =>
      obtain ⟨-, -, same, -⟩ := exec_frame_of_sends_none h hs
      exact absurd same grown
    | some gd =>
      obtain ⟨g, d⟩ := gd
      rw [exec_of_sends hs] at h
      have htx' : t.txlog = s.txlog ++ [g] := (emit_logs h).1.resolve_left grown
      obtain rfl : g = f := by simpa using htx'.symm.trans htx
      exact sends_length hs hflush

/-! ## A run over the serializer (R156, R232) -/

/-- Over the serializer with the peripheral idle, a command always completes (O29). -/
theorem exec_completes {s : State} (hlink : s.cfg.link = .serializer) (hidle : s.periphBusy = false) (i : Instr) :
    ∃ t, exec i s = .next t := by
  obtain ⟨t, hexec, -⟩ := everyEmitterHasOneFrame s i (.inl ⟨hlink, hidle⟩)
  exact ⟨t, hexec⟩

/-- Over the serializer with the peripheral idle, a step with the port free works off the host's next item. -/
theorem step_works_off {s : State} (hlink : s.cfg.link = .serializer) (hidle : s.periphBusy = false)
    (hfree : s.emitting = none) {item : PortItem} {rest : List PortItem} (hnext : s.pending = item :: rest) :
    ∃ t, step s = .next t ∧ t.cfg = s.cfg ∧ t.pending = rest ∧ t.periphBusy = false := by
  rw [step_accept hfree hnext]
  cases hdecode : decode item with
  | ok i =>
    obtain ⟨t, hexec⟩ := exec_completes (s := { s with pending := rest }) hlink hidle i
    obtain ⟨hcfg, hpending, hbusy, -⟩ := commandsKeepProgramAndParameters i _ t hexec
    exact ⟨t, (accept_of_ok hdecode _).trans hexec, hcfg, hpending, hbusy.trans hidle⟩
  | error e => exact ⟨_, accept_of_error hdecode _, rfl, rfl, hidle⟩

/-- Settles O52, by induction on what the host still presents: each item takes one step (`step_works_off`), which keeps
the invariant (O44), and the invariant is the rest state of the serializer. -/
theorem everyProgramEndsOverTheSerializer : Obligations.EveryProgramEndsOverTheSerializer := by
  unfold Obligations.EveryProgramEndsOverTheSerializer
  intro s hinv hlink hidle
  induction hitems : s.pending generalizing s with
  | nil =>
    exact ⟨s, run_zero s, ⟨hitems, hinv.emitting_link hlink, hinv.lstate_idle, hinv.linemode_periph⟩, hinv⟩
  | cons item rest ih =>
    obtain ⟨u, hstep, hcfg, hpending, hbusy⟩ := step_works_off hlink hidle (hinv.emitting_link hlink) hitems
    obtain ⟨t, hrun, hdone⟩ := ih u (stepKeepsTheInvariant s u hinv hstep) (by rw [hcfg, hlink]) hbusy hpending
    exact ⟨t, (run_of_next hstep _).trans hrun, hdone⟩

end Sys2Proof.Machine
end

section
/-! PROOFS. The host macros in general (44_host_macros.md R171 to R178, 70_reset_and_hazards.md R223). -/

namespace Sys2Proof.Machine

/-! ## display_string (R172) -/

theorem displayString_past {c : Config} {start : Nat} (h : c.posCount ≤ start) (text : List Byte) :
    displayString c start text = [] := by
  induction text generalizing start with
  | nil => rfl
  | cons chr rest ih => rw [displayString_cons_past h, ih (by omega)]

/-- Settles O54, by induction on the text: the first character is issued where it fits, and the rest is the same text
one position on. -/
theorem displayStringIssuesWhatFits : Obligations.DisplayStringIssuesWhatFits := by
  unfold Obligations.DisplayStringIssuesWhatFits
  intro c start text
  induction text generalizing start with
  | nil => rw [List.take_nil]; rfl
  | cons chr rest ih =>
    by_cases hfits : start < c.posCount
    · obtain ⟨n, hn⟩ : ∃ n, c.posCount - start = n + 1 := ⟨c.posCount - start - 1, by omega⟩
      rw [displayString_cons_fits hfits, ih, hn, show c.posCount - (start + 1) = n by omega, List.take_succ_cons,
        List.zipIdx_cons, List.map_cons, List.zipIdx_succ, List.map_map]
      simp only [Function.comp_def, Nat.add_zero, Nat.add_right_comm start 1, Nat.add_assoc]
    · rw [displayString_past (by omega), show c.posCount - start = 0 by omega]
      rfl

/-! ## display_number with leading zeros (R175) -/

/-- The `n` lowest decimal digits of `mag`, most significant first. -/
def decimalDigits (mag n : Nat) : List Nat := (List.range n).map (fun col => decimalDigit mag (n - 1 - col))

theorem decimalDigits_length (mag n : Nat) : (decimalDigits mag n).length = n := by simp [decimalDigits]

theorem decimalDigit_lt (mag j : Nat) : decimalDigit mag j < 10 := Nat.mod_lt _ (by decide)

theorem lt_of_mem_decimalDigits {mag n d : Nat} (h : d ∈ decimalDigits mag n) : d < 10 := by
  obtain ⟨col, -, rfl⟩ := List.mem_map.1 h
  exact decimalDigit_lt mag _

/-- One column more on the left. -/
theorem decimalDigits_succ (mag n : Nat) : decimalDigits mag (n + 1) = decimalDigit mag n :: decimalDigits mag n := by
  rw [decimalDigits, List.range_succ_eq_map, List.map_cons, List.map_map]
  refine congrArg₂ List.cons (by simp) (List.map_congr_left fun col _ => ?_)
  exact congrArg (decimalDigit mag) (by simp only [Nat.succ_eq_add_one]; omega)

/-- Read in base 10 after a number `acc`, the `n` digits are its `n` low digits. -/
theorem foldl_decimalDigits (mag n acc : Nat) :
    (decimalDigits mag n).foldl (fun acc d => 10 * acc + d) acc = acc * 10 ^ n + mag % 10 ^ n := by
  induction n generalizing acc with
  | zero => simp [decimalDigits, Nat.mod_one]
  | succ n ih =>
    rw [decimalDigits_succ, List.foldl_cons, ih, Nat.mod_pow_succ, decimalDigit]
    ring

/-- Columns paired with their places. -/
theorem zipIdx_map_range {α β : Type} (f : Nat → α) (g : α × Nat → β) (n : Nat) :
    ((List.range n).map f).zipIdx.map g = (List.range n).map (fun col => g (f col, col)) := by
  apply List.ext_getElem <;> simp

/-- Settles O56: with leading zeros every column but the sign's is a decimal digit of the magnitude
(`numberGlyph_zeros_digit`), and `foldl_decimalDigits` reads them back. -/
theorem displayNumberSpellsTheValue : Obligations.DisplayNumberSpellsTheValue := by
  unfold Obligations.DisplayNumberSpellsTheValue
  intro c start width mag hwidth hend
  refine ⟨fun hmag => ⟨decimalDigits mag width, decimalDigits_length _ _, fun d => lt_of_mem_decimalDigits,
      by rw [foldl_decimalDigits, Nat.zero_mul, Nat.zero_add], ?_⟩,
    fun hpos hmag => ⟨decimalDigits mag (width - 1), decimalDigits_length _ _, fun d => lt_of_mem_decimalDigits,
      by rw [foldl_decimalDigits, Nat.zero_mul, Nat.zero_add], ?_⟩⟩
  · rw [displayNumber_eq c true (by omega) (by omega) hwidth hend, decimalDigits, zipIdx_map_range]
    refine congrArg some (List.map_congr_left fun col _ => ?_)
    rw [numberGlyph_zeros_digit (by omega), Int.natAbs_natCast, glyphCommand]
  · obtain ⟨n, rfl⟩ := Nat.exists_eq_add_of_le' hwidth
    rw [displayNumber_eq c true (by omega) (by omega) hwidth hend, decimalDigits, zipIdx_map_range,
      List.range_succ_eq_map, List.map_cons, List.map_map, numberGlyph_zeros_sign (by omega)]
    refine congrArg some (congrArg₂ List.cons rfl (List.map_congr_left fun col _ => ?_))
    have place : n + 1 - 1 - (col + 1) = n + 1 - 1 - 1 - col := by omega
    rw [Function.comp_apply, numberGlyph_zeros_digit (by omega), Int.natAbs_neg, Int.natAbs_natCast,
      Nat.succ_eq_add_one, place, glyphCommand]

/-! ## The other macros (R171, R177, R178, R223) -/

theorem setBrightness_eq {level : Nat} (h : level ≤ 7) :
    setBrightness level = some [.setbrt (BitVec.ofNat 3 level)] := by
  rw [setBrightness, if_pos h]

theorem setBrightness_refused {level : Nat} (h : 7 < level) : setBrightness level = none := by
  rw [setBrightness, if_neg (by omega)]

/-- Settles O57: each macro is its definition; the start-up is five of them. -/
theorem smallMacroExpansions : Obligations.SmallMacroExpansions := by
  unfold Obligations.SmallMacroExpansions
  refine ⟨fun p chr h => ?_, fun p chr h => ?_, rfl, fun l h => setBrightness_eq h, fun l h => setBrightness_refused h,
    rfl, rfl, rfl, fun l h => ?_, fun l h => ?_⟩
  · rw [displayChar, if_pos h]
  · rw [displayChar, if_neg (by omega)]
  · rw [bootSequence, setBrightness_eq h]
    interval_cases l <;> rfl
  · rw [bootSequence, setBrightness_refused h]
    rfl

end Sys2Proof.Machine
end
